-- ==== Sys2Proof/Word.lean ====
section
/-! DEFINITION. The word types of E13. A sequence of modules packed into a number has module 0 as its
most significant bit (00_scope.md R11), so the bit vector's own `++` is the spec's concatenation. -/

namespace Sys2Proof

/-- A digit value, 4 bits, 0..=9 wherever the spec produces one (00_scope.md glossary, 20_memory.md R42). -/
abbrev Digit := BitVec 4

/-- An 8-bit character cell (30_encoding.md R61, R65). -/
abbrev CharCell := BitVec 8

/-- The 5-bit declared length of a candidate (30_encoding.md R63). -/
abbrev Len := BitVec 5

/-- A 7-module code (41_lut_parity.md, section 2). -/
abbrev ModuleCode := BitVec 7

/-- A 6-selector word of `PAR`, selector 0 in bit 5, `ODD` = 0 (41_lut_parity.md R104). -/
abbrev SelectorWord := BitVec 6

/-- A 95-module symbol (10_state.md R27, 42_framer.md R122). -/
abbrev Symbol := BitVec 95

/-- The 112-bit command word (30_encoding.md R60). -/
abbrev CommandWord := BitVec 112

/-- The thirteen character cells of a command, `CH[0]` first (30_encoding.md R61). -/
abbrev Cells := Vector CharCell 13

end Sys2Proof
end

