-- ==== Sys2Proof/Config.lean ====
section
/-! DEFINITION. What is fixed for one machine and is no state (00_scope.md R8, 10_state.md R21), and the
free values: constants with no body, of which nothing can be proved. The values E13 takes are in
Machine/Rom.lean. -/

namespace Sys2Proof

/-- A parity selector (41_lut_parity.md R104). -/
inductive Parity where
  | odd
  | even
deriving DecidableEq, Repr

/-- The parameters of 00_scope.md R8 that a rule reads. The sizes the source fixes (13, 12, 7, 6, 95) and the
field widths of the command word are the types of Word.lean. -/
structure Config where
  /-- The block's identifier string (00_scope.md R1). -/
  identity : String
  /-- The checksum weights `W[0..12)` (40_checksum.md R81). -/
  w : Vector Nat 12
  /-- ROM `LODD` (41_lut_parity.md R101). -/
  lodd : Vector ModuleCode 10
  /-- ROM `LEVEN` (41_lut_parity.md R102). -/
  leven : Vector ModuleCode 10
  /-- ROM `REVEN` (41_lut_parity.md R103). -/
  reven : Vector ModuleCode 10
  /-- ROM `PAR` (41_lut_parity.md R105). -/
  par : Vector SelectorWord 10
  /-- The guard `START` (42_framer.md R121). -/
  startGuard : BitVec 3
  /-- The guard `CENTER` (42_framer.md R121). -/
  centerGuard : BitVec 5
  /-- The guard `END` (42_framer.md R121). -/
  endGuard : BitVec 3
  /-- `ZERO_CODE`, the character code of '0' (00_scope.md R8, 30_encoding.md R65). -/
  zeroCode : CharCell
  /-- `N_ENGINES` (60_exceptions.md R153). -/
  nEngines : Nat
deriving DecidableEq, Repr

/-- The configurations the checksum laws speak of: every weight is 1 or 3 (40_checksum.md R81, R89). -/
abbrev Config.WeightsOneOrThree (c : Config) : Prop :=
  ∀ i : Fin 12, c.w[i] = 1 ∨ c.w[i] = 3

/-- The free value a host reads from `RB` while `ST.BV = 0` (10_state.md R30, U7). The first argument is the
machine's counter, the second tells apart reads made while the counter stands. -/
opaque Config.freeRB : Nat → Nat → Bool

/-- The free value a host reads from `RD` while `ST.DV = 0` (10_state.md R30, U7). -/
opaque Config.freeRD : Nat → Nat → Digit

/-- The free value a host reads from `SYM` while `ST.SV = 0` (10_state.md R30, U7). -/
opaque Config.freeSYM : Nat → Nat → Symbol

/-- What a platform places at an address: the command port and the registers the host reads
(20_memory.md R45). -/
inductive BusItem where
  | commandPort
  | st
  | rb
  | rd
  | sym
deriving DecidableEq, Repr

/-- The open parameter `BUS_MAP`; no rule depends on it (20_memory.md R45, U14). -/
opaque Config.busMap : BusItem → Nat

/-- The open parameter `LATENCY`, of each command word; no rule depends on it (70_reset_and_hazards.md R170, U13). -/
opaque Config.latency : CommandWord → Nat

/-- The open parameter `PORT_PROTOCOL`, by name only; no rule depends on it (00_scope.md R8, U14). -/
opaque Config.portProtocol : String

end Sys2Proof
end

