-- ==== Sys2Proof/Syntax.lean ====
section
/-! DEFINITION. The commands: one constructor per row of spec/opcode_table.json. Every command carries the whole
operand of format `C`, `LEN` and the thirteen cells (30_encoding.md R60, R61, R72). -/

namespace Sys2Proof

inductive Instr where
  /-- `CHKD`, compute check digit, `OP` 0 (40_checksum.md R86). -/
  | chkd (len : Len) (ch : Cells)
  /-- `VERIFY`, the raising form, `OP` 1 (40_checksum.md R87). -/
  | verify (len : Len) (ch : Cells)
  /-- `VERIFYQ`, the non-raising form, `OP` 2 (40_checksum.md R88). -/
  | verifyq (len : Len) (ch : Cells)
  /-- `ENCODE`, encode symbol, `OP` 3 (42_framer.md R125). -/
  | encode (len : Len) (ch : Cells)
  /-- The reserved row, `OP` 4..=7: an illegal command word (30_encoding.md R67, 60_exceptions.md R144). -/
  | reserved (op : BitVec 3) (len : Len) (ch : Cells)
deriving DecidableEq, Repr

end Sys2Proof
end

