-- ==== Sys2Proof/Machine/Operands.lean ====
section
/-! DEFINITION. Operand assembly: from `LEN` and the character cells to digits (30_encoding.md R63 to R66), and the order of
modules in a packed sequence (00_scope.md R11). -/

namespace Sys2Proof.Machine

/-- `isdigit(c)`: `ZERO_CODE <= c <= ZERO_CODE + 9` (00_scope.md R12, 30_encoding.md R65). -/
def isdigit (c : Config) (x : CharCell) : Bool :=
  decide (c.zeroCode.toNat ≤ x.toNat) && decide (x.toNat ≤ c.zeroCode.toNat + 9)

/-- `digit(c) = (c - 0x30)[3:0]`, used only where `isdigit(c)` (30_encoding.md R65). -/
def digit (c : Config) (x : CharCell) : Digit := (x - c.zeroCode).setWidth 4

/-- `wellformed(n)`: `LEN == n` and the first `n` cells are digit characters (30_encoding.md R66). -/
def wellformed (c : Config) (n : Nat) (len : Len) (ch : Cells) : Bool :=
  decide (len.toNat = n) && (ch.toList.take n).all (isdigit c)

/-- The digits `d[i] = digit(CH[i])` for i in 0..=12 (30_encoding.md R66). -/
def digits (c : Config) (ch : Cells) : Vector Digit 13 := Vector.ofFn fun i : Fin 13 => digit c ch[i]

/-- The digits of the first twelve cells, `d[0..12)` (00_scope.md R10, 40_checksum.md R86). -/
def prefixDigits (c : Config) (ch : Cells) : Vector Digit 12 := (digits c ch).pop

/-- Module `i` of a packed sequence of `n` modules: `bit[n-1-i] = m[i]`, `true` for a marked module
(00_scope.md R11). -/
def moduleAt {n : Nat} (v : BitVec n) (i : Nat) : Bool := v.getMsbD i

end Sys2Proof.Machine
end

