-- ==== Sys2Proof/WellFormed.lean ====
section
/-! DEFINITION. Which terms of Instr are commands the encoding can carry. `LEN` and the cells may be anything
(30_encoding.md R63, R68); only the reserved row constrains a field. -/

namespace Sys2Proof

/-- Every field is one the encoding admits: the reserved row has `OP` 4..=7 (30_encoding.md R62, R67). -/
def Instr.wf : Instr → Bool
  | .chkd _ _ => true
  | .verify _ _ => true
  | .verifyq _ _ => true
  | .encode _ _ => true
  | .reserved op _ _ => decide (4 ≤ op.toNat)

end Sys2Proof
end

