-- ==== Sys2Proof/Decode.lean ====
section
/-! DEFINITION. The decoder, total on every 112-bit word (30_encoding.md R72), and the encoder, written from the
field table of R61 and the opcode map of R62. -/

namespace Sys2Proof

/-- `OP`, bits 111:109 (30_encoding.md R61). -/
def opField (w : CommandWord) : BitVec 3 := w.extractLsb' 109 3

/-- `LEN`, bits 108:104 (30_encoding.md R61). -/
def lenField (w : CommandWord) : Len := w.extractLsb' 104 5

/-- `CH[i] = word[103-8i : 96-8i]` for i in 0..=12 (30_encoding.md R61). -/
def cellField (w : CommandWord) (i : Fin 13) : CharCell := w.extractLsb' (96 - 8 * i.val) 8

/-- The thirteen cells (30_encoding.md R72). -/
def cellsField (w : CommandWord) : Cells := Vector.ofFn (cellField w)

/-- `decode` of 30_encoding.md R72: `OP` alone selects the command (R62), and no word is without an answer. -/
def decode (w : CommandWord) : Instr :=
  if opField w = 0#3 then .chkd (lenField w) (cellsField w)
  else if opField w = 1#3 then .verify (lenField w) (cellsField w)
  else if opField w = 2#3 then .verifyq (lenField w) (cellsField w)
  else if opField w = 3#3 then .encode (lenField w) (cellsField w)
  else .reserved (opField w) (lenField w) (cellsField w)

/-- Why a list of bytes is no command word. -/
inductive DecodeReject where
  /-- A command word is exactly 14 bytes (30_encoding.md R60); this list has another length. -/
  | wrongLength (n : Nat)
deriving DecidableEq, Repr

/-- The word written by bytes, the byte `{OP, LEN}` first and then the cells in string order (30_encoding.md R61). -/
def wordOfBytes (bs : List (BitVec 8)) : CommandWord :=
  bs.foldl (fun acc b => (acc <<< 8) ||| b.setWidth 112) 0#112

/-- Decoding any list of bytes: fourteen bytes are a command word, any other number is rejected by name. -/
def decodeBytes (bs : List (BitVec 8)) : Except DecodeReject Instr :=
  if bs.length = 14 then .ok (decode (wordOfBytes bs)) else .error (.wrongLength bs.length)

/-- The command word the opcode table's numbering gives: bit 0 is the least significant bit of the one 112-bit
word, and bits at or above `nbits` are 0. -/
def tableWord (nbits w : Nat) : CommandWord := BitVec.ofNat 112 (w % 2 ^ nbits)

/-- The instruction the decoder reads from a word numbered as spec/opcode_table.json numbers it; a word longer
than the one format (30_encoding.md R60) is refused. -/
def decodeTableWord (nbits w : Nat) : Option Instr :=
  if nbits ≤ 112 then some (decode (tableWord nbits w)) else none

/-- Format `C` (30_encoding.md R61): `OP`, `LEN`, then the cells, most significant first. -/
def formatC (op : BitVec 3) (len : Len) (ch : Cells) : CommandWord :=
  op ++ len ++ ch[0] ++ ch[1] ++ ch[2] ++ ch[3] ++ ch[4] ++ ch[5] ++ ch[6] ++ ch[7] ++ ch[8] ++ ch[9] ++ ch[10]
    ++ ch[11] ++ ch[12]

/-- The command word of an instruction, by the opcode map of 30_encoding.md R62. -/
def encode : Instr → CommandWord
  | .chkd len ch => formatC 0#3 len ch
  | .verify len ch => formatC 1#3 len ch
  | .verifyq len ch => formatC 2#3 len ch
  | .encode len ch => formatC 3#3 len ch
  | .reserved op len ch => formatC op len ch

/-- The fourteen bytes of a command word, `{OP, LEN}` first (30_encoding.md R61). -/
def bytesOfWord (w : CommandWord) : List (BitVec 8) :=
  (List.range 14).map fun k => w.extractLsb' (104 - 8 * k) 8

end Sys2Proof
end

