-- ==== Sys2Proof/Machine/State.lean ====
section
/-! DEFINITION. The state of one engine (10_state.md R20), plain data, and its value after reset (R34). The reasons a
step can stop. -/

namespace Sys2Proof.Machine

/-- The three synchronous exceptions (60_exceptions.md R140). -/
inductive Exc where
  /-- FormatError, code 1, not fatal (60_exceptions.md R141). -/
  | formatError
  /-- ContractViolation, code 2, fatal (60_exceptions.md R142). -/
  | contractViolation
  /-- IllegalCommand, code 3, fatal (60_exceptions.md R144). -/
  | illegalCommand
deriving DecidableEq, Repr

/-- The six defined bits of `ST` (10_state.md R24). Bits 7:6 are hard-wired zero and are supplied by the one
operation that reads `ST` as a byte (Machine/Flags.lean, `Status.byte`). -/
structure Status where
  /-- `ST.BV`: `RB` holds the Boolean result of the last command. -/
  bv : Bool
  /-- `ST.DV`: `RD` holds the digit result of the last command. -/
  dv : Bool
  /-- `ST.SV`: `SYM` holds the symbol produced by the last command. -/
  sv : Bool
  /-- `ST.ERR`: the exception of the last command, `none` for code 0. -/
  err : Option Exc
  /-- `ST.HALT`: a fatal exception has been raised since reset. -/
  halt : Bool
deriving DecidableEq, Repr

/-- What the host can do to an engine between commands (10_state.md R33, 70_reset_and_hazards.md R160). -/
inductive HostInput where
  /-- Present one 112-bit word on the command port. -/
  | present (w : CommandWord)
  /-- Assert the reset input. -/
  | reset
deriving DecidableEq, Repr

/-- The state of one engine. `st`, `rb`, `rd`, `sym` are the architectural state (10_state.md R20), `live` is the
power-on distinction of 70_reset_and_hazards.md R161, and `draws` and `inputs` are the model's own
(notes/assumptions 1 and 3). The latches `rb`, `rd`, `sym` are read by the host through the operations of
Machine/HostRead.lean only, which answer them where the valid flag is 1 (10_state.md R30). -/
structure State where
  /-- The status register `ST` (10_state.md R24). -/
  st : Status
  /-- The Boolean result `RB`, 1 bit, `true` for 1 (10_state.md R25). -/
  rb : Bool
  /-- The digit result `RD`, 4 bits (10_state.md R26). -/
  rd : Digit
  /-- The symbol register `SYM`, module 0 in bit 94 (10_state.md R27, 00_scope.md R11). -/
  sym : Symbol
  /-- A reset has been asserted since power-on (70_reset_and_hazards.md R161, U8). -/
  live : Bool
  /-- The model's counter of free values (10_state.md R30, U7). -/
  draws : Nat
  /-- The model's list of what the host does next to this engine, first thing first (10_state.md R21(e)). -/
  inputs : List HostInput
deriving DecidableEq, Repr

/-- Why the machine stops with a fault. No command faults: the three exceptions of the spec are next states
(60_exceptions.md R145). -/
inductive Fault where
  /-- Raised by `Platform.step` alone, when it is asked for an engine the platform does not have
  (60_exceptions.md R153). Safe: the model stops. -/
  | noSuchEngine
deriving DecidableEq, Repr

/-- Why a command has no meaning. -/
inductive Refusal where
  /-- An instruction without a meaning, by its mnemonic; raised by `exec`'s arm alone. Safe: the model stops. -/
  | notModelled (mnemonic : String)
  /-- A command presented between power-on and the first reset, when the state is unspecified and "a model refuses
  commands" (70_reset_and_hazards.md R161, 93_implementation_defined.md U8); raised by `step`. Safe: the model
  stops. -/
  | beforeReset
deriving DecidableEq, Repr

/-- `ST = 0x00` (10_state.md R34, 70_reset_and_hazards.md R160). -/
def Status.reset : Status :=
  { bv := false, dv := false, sv := false, err := none, halt := false }

/-- One engine right after reset (10_state.md R34). DESIGN CHOICE: `RB`, `RD` and `SYM`, to which the spec gives no value at
reset, hold 0 (notes/assumptions/2.md, unsafe); `draws` is 0 and nothing is presented yet (3, 1). -/
def State.reset : State :=
  { st := Status.reset, rb := false, rd := 0#4, sym := 0#95, live := true, draws := 0, inputs := [] }

end Sys2Proof.Machine
end

