-- ==== Sys2Proof/Machine/Flags.lean ====
section
/-! DEFINITION. The status register: its packing into a byte, the exception codes, and the flag writes of
`begin_command`, of the valid flags and of `raise`. -/

namespace Sys2Proof.Machine

/-- The code of an exception (60_exceptions.md R140). -/
def Exc.code : Exc → BitVec 2
  | .formatError => 1#2
  | .contractViolation => 2#2
  | .illegalCommand => 3#2

/-- Codes 2 and 3 are fatal (60_exceptions.md R140, R143). -/
def Exc.fatal : Exc → Bool
  | .formatError => false
  | .contractViolation => true
  | .illegalCommand => true

/-- `ST.ERR`, bits 4:3: 0 for no exception (10_state.md R24). -/
def Status.errCode (st : Status) : BitVec 2 :=
  match st.err with
  | none => 0#2
  | some e => e.code

/-- `ST` as the byte the host reads (10_state.md R24): bits 7:6 hard-wired zero, `HALT`, `ERR`, `SV`, `DV`, `BV`. -/
def Status.byte (st : Status) : BitVec 8 :=
  0#2 ++ BitVec.ofBool st.halt ++ st.errCode ++ BitVec.ofBool st.sv ++ BitVec.ofBool st.dv ++ BitVec.ofBool st.bv

/-- `begin_command` clears `BV`, `DV`, `SV` and `ERR` and does not touch `HALT` (10_state.md R28). -/
def Status.begin (st : Status) : Status :=
  { st with bv := false, dv := false, sv := false, err := none }

/-- `raise E` on the status register: `ERR` gets the code, `HALT` is set if `E` is fatal (60_exceptions.md R145). -/
def Status.raise (e : Exc) (st : Status) : Status :=
  { st with err := some e, halt := st.halt || e.fatal }

end Sys2Proof.Machine
end

