-- ==== Sys2Proof/Machine/Ops.lean ====
section
/-! DEFINITION. The shared operations over one engine: the start of every taken command, the register writes, taking
an exception, the HALT check, asserting reset, and taking the host's next input. -/

namespace Sys2Proof.Machine

/-- `begin_command`, the first action of every taken command (10_state.md R28). A taken command also moves the
model's counter of free values on, so that a register without a value is drawn afresh (R30, U7). -/
def beginCommand (s : State) : State :=
  { s with st := s.st.begin, draws := s.draws + 1 }

/-- `RB <- b` and `ST.BV <- 1` (10_state.md R25). -/
def writeRB (b : Bool) (s : State) : State :=
  { s with rb := b, st := { s.st with bv := true } }

/-- `RD <- d` and `ST.DV <- 1` (10_state.md R26). -/
def writeRD (d : Digit) (s : State) : State :=
  { s with rd := d, st := { s.st with dv := true } }

/-- `SYM[0..95) <- y`, all modules at once, and `ST.SV <- 1` (10_state.md R27). -/
def writeSYM (y : Symbol) (s : State) : State :=
  { s with sym := y, st := { s.st with sv := true } }

/-- Taking an exception (60_exceptions.md R145): only `ST.ERR` and, for a fatal one, `ST.HALT` are written. There is
no saved context, vector or mode, and there is no return from an exception (R148). -/
def raise (e : Exc) (s : State) : State :=
  { s with st := s.st.raise e }

/-- Presenting a command to the engine (60_exceptions.md R143, R146): while `ST.HALT = 1` the command is not taken and
nothing changes; else `begin_command` and then the command's own effect, in one step. -/
def takeCommand (effect : State → State) (s : State) : Host.Outcome State Fault Refusal :=
  if s.st.halt then .next s else .next (effect (beginCommand s))

/-- The reset input (70_reset_and_hazards.md R160): every piece of state takes its value of 10_state.md R34. What the host
does next is not the engine's state and stays, and the counter of free values moves on (R30). -/
def assertReset (s : State) : State :=
  { State.reset with draws := s.draws + 1, inputs := s.inputs }

/-- The host's next input and the state with that input taken off the list; none when the host does nothing. -/
def takeInput (s : State) : Option (HostInput × State) :=
  match s.inputs with
  | [] => none
  | x :: rest => some (x, { s with inputs := rest })

/-- The state in which the host's next action is to present `w` to an engine that has been reset. -/
def presentNext (w : CommandWord) (s : State) : State :=
  { s with inputs := .present w :: s.inputs, live := true }

end Sys2Proof.Machine
end

