-- ==== Sys2Proof/Machine/Rom.lean ====
section
/-! DEFINITION. The constants of E13: the weights, the contents of the four ROMs and the guards, and the configuration E13
takes (00_scope.md R8). The weights, the tables and the character code are from general knowledge by the spec's own mark
(93_implementation_defined.md G1 to G6; notes/assumptions 5, 6, 7). -/

namespace Sys2Proof.Machine

/-- `W_STD`: weight 1 at even and 3 at odd 0-based positions (40_checksum.md R81). -/
def wStd : Vector Nat 12 := #v[1, 3, 1, 3, 1, 3, 1, 3, 1, 3, 1, 3]

/-- `W_DOC`, the document's literal (40_checksum.md R81, 90_conflicts.md C1). -/
def wDoc : Vector Nat 12 := #v[3, 1, 3, 1, 3, 1, 3, 1, 3, 1, 3, 1]

/-- ROM `LODD` (41_lut_parity.md R101). -/
def romLODD : Vector ModuleCode 10 :=
  #v[0b0001101#7, 0b0011001#7, 0b0010011#7, 0b0111101#7, 0b0100011#7,
    0b0110001#7, 0b0101111#7, 0b0111011#7, 0b0110111#7, 0b0001011#7]

/-- ROM `LEVEN` (41_lut_parity.md R102). -/
def romLEVEN : Vector ModuleCode 10 :=
  #v[0b0100111#7, 0b0110011#7, 0b0011011#7, 0b0100001#7, 0b0011101#7,
    0b0111001#7, 0b0000101#7, 0b0010001#7, 0b0001001#7, 0b0010111#7]

/-- ROM `REVEN` (41_lut_parity.md R103). -/
def romREVEN : Vector ModuleCode 10 :=
  #v[0b1110010#7, 0b1100110#7, 0b1101100#7, 0b1000010#7, 0b1011100#7,
    0b1001110#7, 0b1010000#7, 0b1000100#7, 0b1001000#7, 0b1110100#7]

/-- ROM `PAR`, `ODD` = 0 and `EVEN` = 1, selector 0 leftmost (41_lut_parity.md R104, R105). -/
def romPAR : Vector SelectorWord 10 :=
  #v[0b000000#6, 0b001011#6, 0b001101#6, 0b001110#6, 0b010011#6,
    0b011001#6, 0b011100#6, 0b010101#6, 0b010110#6, 0b011010#6]

/-- The configuration E13 takes (00_scope.md R8; guards 42_framer.md R121). -/
def e13 : Config :=
  { identity := "E13-v7", w := wStd, lodd := romLODD, leven := romLEVEN, reven := romREVEN, par := romPAR,
    startGuard := 0b101#3, centerGuard := 0b01010#5, endGuard := 0b101#3, zeroCode := 0x30#8, nEngines := 1 }

/-- E13 with the document's weights instead, for claims and vectors stated for either value (40_checksum.md R81). -/
def e13Doc : Config := { e13 with w := wDoc }

end Sys2Proof.Machine
end

