-- ==== Sys2Proof/Machine/Checksum.lean ====
section
/-! DEFINITION. The checksum engine CSE (40_checksum.md): its functions and the meanings of `CHKD`, `VERIFY` and `VERIFYQ`.
Each effect takes the configuration, so that a claim can be stated for any weights (R81). -/

namespace Sys2Proof.Machine

/-- `wsum(d)`, a natural number (40_checksum.md R82, R84). -/
def wsum (c : Config) (d : Vector Digit 12) : Nat :=
  d[0].toNat * c.w[0] + d[1].toNat * c.w[1] + d[2].toNat * c.w[2] + d[3].toNat * c.w[3]
    + d[4].toNat * c.w[4] + d[5].toNat * c.w[5] + d[6].toNat * c.w[6] + d[7].toNat * c.w[7]
    + d[8].toNat * c.w[8] + d[9].toNat * c.w[9] + d[10].toNat * c.w[10] + d[11].toNat * c.w[11]

/-- `checkdigit(d) = (10 - (wsum(d) mod 10)) mod 10` (40_checksum.md R83). -/
def checkdigit (c : Config) (d : Vector Digit 12) : Digit :=
  BitVec.ofNat 4 ((10 - wsum c d % 10) % 10)

/-- `verify13(d) = (checkdigit(d[0..12)) == d[12])` (40_checksum.md R85). -/
def verify13 (c : Config) (d : Vector Digit 13) : Bool :=
  checkdigit c d.pop == d[12]

/-- What a taken `CHKD` does after `begin_command` (40_checksum.md R86). -/
def chkdEffect (c : Config) (len : Len) (ch : Cells) (s : State) : State :=
  if wellformed c 12 len ch then writeRD (checkdigit c (prefixDigits c ch)) s
  else raise .contractViolation s

/-- What a taken `VERIFY` does after `begin_command` (40_checksum.md R87). -/
def verifyEffect (c : Config) (len : Len) (ch : Cells) (s : State) : State :=
  if wellformed c 13 len ch then
    writeRB (checkdigit c (prefixDigits c ch) == (digits c ch)[12])
      (writeRD (checkdigit c (prefixDigits c ch)) s)
  else raise .formatError s

/-- What a taken `VERIFYQ` does after `begin_command` (40_checksum.md R88). -/
def verifyqEffect (c : Config) (len : Len) (ch : Cells) (s : State) : State :=
  writeRB (wellformed c 13 len ch && verify13 c (digits c ch)) s

/-- `CHKD` (40_checksum.md R86). -/
def execChkd (len : Len) (ch : Cells) (s : State) : Host.Outcome State Fault Refusal :=
  takeCommand (chkdEffect e13 len ch) s

/-- `VERIFY` (40_checksum.md R87). -/
def execVerify (len : Len) (ch : Cells) (s : State) : Host.Outcome State Fault Refusal :=
  takeCommand (verifyEffect e13 len ch) s

/-- `VERIFYQ` (40_checksum.md R88). -/
def execVerifyq (len : Len) (ch : Cells) (s : State) : Host.Outcome State Fault Refusal :=
  takeCommand (verifyqEffect e13 len ch) s

end Sys2Proof.Machine
end

