-- ==== Sys2Proof/Machine/Lut.lean ====
section
/-! DEFINITION. The digit-to-module encoder with parity selector, DME (41_lut_parity.md): reads of the four ROMs and the
lookup functions. They take any 4-bit index; 10..=15 raises ContractViolation and gets no word (R108, 20_memory.md R43). -/

namespace Sys2Proof.Machine

/-- `MemRead(T:a, 1)` of a ROM of ten words: the whole word, or ContractViolation outside 0..=9 (20_memory.md R42, R43). -/
def memRead {word : Type} (rom : Vector word 10) (a : Digit) : Except Exc word :=
  if h : a.toNat < 10 then .ok rom[a.toNat] else .error .contractViolation

/-- `parsel(d0)` (41_lut_parity.md R104). -/
def parsel (c : Config) (d0 : Digit) : Except Exc SelectorWord := memRead c.par d0

/-- Selector `k` of a row of `PAR`: `ODD` = 0, `EVEN` = 1, selector 0 in bit 5 (41_lut_parity.md R104). -/
def selector (sel : SelectorWord) (k : Nat) : Parity :=
  if sel.getMsbD k then .even else .odd

/-- `leftcode(s, d)` (41_lut_parity.md R106). -/
def leftcode (c : Config) (p : Parity) (d : Digit) : Except Exc ModuleCode :=
  match p with
  | .odd => memRead c.lodd d
  | .even => memRead c.leven d

/-- `rightcode(d)` (41_lut_parity.md R107). -/
def rightcode (c : Config) (d : Digit) : Except Exc ModuleCode := memRead c.reven d

end Sys2Proof.Machine
end

