-- ==== Sys2Proof/Machine/Framer.lean ====
section
/-! DEFINITION. The guard and digit framer GDF (42_framer.md) and the meaning of `ENCODE`. -/

namespace Sys2Proof.Machine

/-- `frame(Lc, Rc)`: start guard, six left codes, center guard, six right codes, end guard (42_framer.md R122). -/
def frame (c : Config) (lc rc : Vector ModuleCode 6) : Symbol :=
  c.startGuard ++ lc[0] ++ lc[1] ++ lc[2] ++ lc[3] ++ lc[4] ++ lc[5] ++ c.centerGuard
    ++ rc[0] ++ rc[1] ++ rc[2] ++ rc[3] ++ rc[4] ++ rc[5] ++ c.endGuard

/-- `Lc[k] = leftcode(sel[k], d[k+1])` for k in 0..=5 (42_framer.md R124). -/
def leftCodes (c : Config) (sel : SelectorWord) (d : Vector Digit 13) : Except Exc (Vector ModuleCode 6) := do
  let l0 ← leftcode c (selector sel 0) d[1]
  let l1 ← leftcode c (selector sel 1) d[2]
  let l2 ← leftcode c (selector sel 2) d[3]
  let l3 ← leftcode c (selector sel 3) d[4]
  let l4 ← leftcode c (selector sel 4) d[5]
  let l5 ← leftcode c (selector sel 5) d[6]
  return #v[l0, l1, l2, l3, l4, l5]

/-- `Rc[k] = rightcode(d[k+7])` for k in 0..=5 (42_framer.md R124). -/
def rightCodes (c : Config) (d : Vector Digit 13) : Except Exc (Vector ModuleCode 6) := do
  let r0 ← rightcode c d[7]
  let r1 ← rightcode c d[8]
  let r2 ← rightcode c d[9]
  let r3 ← rightcode c d[10]
  let r4 ← rightcode c d[11]
  let r5 ← rightcode c d[12]
  return #v[r0, r1, r2, r3, r4, r5]

/-- `encode13(d)` (42_framer.md R124). A digit outside 0..=9 raises ContractViolation (41_lut_parity.md R108). -/
def encode13 (c : Config) (d : Vector Digit 13) : Except Exc Symbol := do
  let sel ← parsel c d[0]
  let lc ← leftCodes c sel d
  let rc ← rightCodes c d
  return frame c lc rc

/-- What a taken `ENCODE` does after `begin_command` (42_framer.md R125). The check digit is not verified (R126). The
lookup's exception is raised if it comes, which after the format check it cannot (41_lut_parity.md R108). -/
def encodeEffect (c : Config) (len : Len) (ch : Cells) (s : State) : State :=
  if wellformed c 13 len ch then
    match encode13 c (digits c ch) with
    | .ok y => writeSYM y s
    | .error e => raise e s
  else raise .formatError s

/-- `ENCODE` (42_framer.md R125). -/
def execEncode (len : Len) (ch : Cells) (s : State) : Host.Outcome State Fault Refusal :=
  takeCommand (encodeEffect e13 len ch) s

end Sys2Proof.Machine
end

