-- ==== Sys2Proof/Machine/Illegal.lean ====
section
/-! DEFINITION. The reserved row of the opcode table: IllegalCommand (30_encoding.md R67, 60_exceptions.md R144). -/

namespace Sys2Proof.Machine

/-- A reserved `OP` raises IllegalCommand whatever `LEN` and the cells hold (60_exceptions.md R144, R146). -/
def execReserved (_op : BitVec 3) (_len : Len) (_ch : Cells) (s : State) : Host.Outcome State Fault Refusal :=
  takeCommand (raise .illegalCommand) s

end Sys2Proof.Machine
end

