-- ==== Sys2Proof/Machine/Dispatch.lean ====
section
/-! DEFINITION. One arm per row of spec/opcode_table.json (30_encoding.md R62, R72). -/

namespace Sys2Proof.Machine

def exec (i : Instr) (s : State) : Host.Outcome State Fault Refusal :=
  match i with
  | .chkd len ch => Sys2Proof.Machine.execChkd len ch s
  | .verify len ch => Sys2Proof.Machine.execVerify len ch s
  | .verifyq len ch => Sys2Proof.Machine.execVerifyq len ch s
  | .encode len ch => Sys2Proof.Machine.execEncode len ch s
  | .reserved op len ch => Sys2Proof.Machine.execReserved op len ch s

end Sys2Proof.Machine
end

