-- ==== Sys2Proof/Machine/Step.lean ====
section
/-! DEFINITION. One step: the engine takes the host's next input (00_scope.md R6, 10_state.md R23). -/

namespace Sys2Proof.Machine

/-- With nothing presented the engine waits (10_state.md R23). Reset acts between commands (70_reset_and_hazards.md R160). A
command is decoded and executed in the one step (00_scope.md R6), unless no reset has come since power-on (R161, U8). -/
def step (s : State) : Host.Outcome State Fault Refusal :=
  match takeInput s with
  | none => .next s
  | some (.reset, s') => .next (assertReset s')
  | some (.present w, s') => if s'.live then exec (decode w) s' else .refused .beforeReset

/-- The state in which the very next step takes the word that the opcode table numbers `w`: the host presents it. -/
def State.withFetchWord (s : State) (nbits w : Nat) : State := presentNext (tableWord nbits w) s

end Sys2Proof.Machine
end

