-- ==== Sys2Proof/Machine/HostRead.lean ====
section
/-! DEFINITION. What the host reads (10_state.md R33). A read is a function of the state and changes nothing. A result
register whose valid flag is 0 holds no value (R30): the read answers a free value, never the latch. The argument `k`
is any number, one for each read: a claim about such a read holds for every `k`. -/

namespace Sys2Proof.Machine

/-- Reading `ST` (10_state.md R24). -/
def readST (s : State) : BitVec 8 := s.st.byte

/-- `ST.BV` of the byte read: bit 0 (10_state.md R24). -/
def readBV (s : State) : Bool := (readST s).getLsbD 0

/-- `ST.DV` of the byte read: bit 1 (10_state.md R24). -/
def readDV (s : State) : Bool := (readST s).getLsbD 1

/-- `ST.SV` of the byte read: bit 2 (10_state.md R24). -/
def readSV (s : State) : Bool := (readST s).getLsbD 2

/-- `ST.ERR` of the byte read: bits 4:3 (10_state.md R24). -/
def readERR (s : State) : BitVec 2 := (readST s).extractLsb' 3 2

/-- `ST.HALT` of the byte read: bit 5 (10_state.md R24). -/
def readHALT (s : State) : Bool := (readST s).getLsbD 5

/-- Reading `RB` (10_state.md R25, R30). -/
def readRB (k : Nat) (s : State) : Bool :=
  if s.st.bv then s.rb else Config.freeRB s.draws k

/-- Reading `RD` (10_state.md R26, R30). -/
def readRD (k : Nat) (s : State) : Digit :=
  if s.st.dv then s.rd else Config.freeRD s.draws k

/-- Reading `SYM` packed, module 0 most significant (10_state.md R27, R30, 00_scope.md R11). -/
def readSYM (k : Nat) (s : State) : Symbol :=
  if s.st.sv then s.sym else Config.freeSYM s.draws k

/-- Reading module `i` of `SYM`, module 0 leftmost (10_state.md R27, R33, 20_memory.md R47). -/
def readModule (k : Nat) (i : Fin 95) (s : State) : Bool := moduleAt (readSYM k s) i.val

end Sys2Proof.Machine
end

