-- ==== Sys2Proof/Machine/HostMacros.lean ====
section
/-! DEFINITION. The host's side: the assembler (30_encoding.md R69), host programs (70_reset_and_hazards.md R172) and the
macros `PIPE`, `MKID` and `CHKV` (30_encoding.md R71). The engine knows nothing of them. -/

namespace Sys2Proof.Machine

/-- The cell the host presents for a character code: a code wider than 8 bits is carried as the non-digit 0xFF
(30_encoding.md R73). -/
def hostCell (code : Nat) : CharCell := if code < 256 then BitVec.ofNat 8 code else 0xFF#8

/-- `LEN = min(length of string, 31)` (30_encoding.md R63, R69). -/
def assembleLen (str : List CharCell) : Len := BitVec.ofNat 5 (min str.length 31)

/-- `CH[i]` is the code of character `i`, and every remaining cell is 0x00 (30_encoding.md R69). -/
def assembleCells (str : List CharCell) : Cells := Vector.ofFn fun i : Fin 13 => str.getD i.val 0#8

/-- `MNEMONIC "string"` as a command word; `mk` is the mnemonic's constructor of Instr (30_encoding.md R69). -/
def assemble (mk : Len → Cells → Instr) (str : List CharCell) : CommandWord :=
  encode (mk (assembleLen str) (assembleCells str))

/-- The host does `x` to the engine now: one step with `x` first in the engine's inputs. -/
def deliver (x : HostInput) (s : State) : Host.Outcome State Fault Refusal :=
  step { s with inputs := x :: s.inputs }

/-- What the host can read: a register, a field of `ST`, or one module of `SYM` (10_state.md R24, R33). -/
inductive HostReg where
  | st
  | bv
  | dv
  | sv
  | err
  | halt
  | rb
  | rd
  | sym
  | module (i : Fin 95)
deriving DecidableEq, Repr

/-- The number the host reads. -/
def hostRead (k : Nat) (r : HostReg) (s : State) : Nat :=
  match r with
  | .st => (readST s).toNat
  | .bv => (readBV s).toNat
  | .dv => (readDV s).toNat
  | .sv => (readSV s).toNat
  | .err => (readERR s).toNat
  | .halt => (readHALT s).toNat
  | .rb => (readRB k s).toNat
  | .rd => (readRD k s).toNat
  | .sym => (readSYM k s).toNat
  | .module i => (readModule k i s).toNat

/-- How the host compares what it reads with a number: `==` (30_encoding.md R71), `>=` (70_reset_and_hazards.md R167), and
their negations. -/
inductive HostRel where
  | eq
  | ne
  | ge
  | lt
deriving DecidableEq, Repr

/-- The comparison of the number read, `x`, with the number given, `v`. -/
def HostRel.holds (rel : HostRel) (x v : Nat) : Bool :=
  match rel with
  | .eq => decide (x = v)
  | .ne => decide (x ≠ v)
  | .ge => decide (v ≤ x)
  | .lt => decide (x < v)

/-- A condition of the host (70_reset_and_hazards.md R171): what it reads, and what it compares that with. -/
structure HostCond where
  reg : HostReg
  rel : HostRel
  value : Nat
deriving DecidableEq, Repr

/-- `RB == 1`, the condition of `PIPE` and `CHKV` (30_encoding.md R71). -/
def HostCond.valid : HostCond := { reg := .rb, rel := .eq, value := 1 }

/-- `ST.HALT` is clear (70_reset_and_hazards.md R167, R171). -/
def HostCond.running : HostCond := { reg := .halt, rel := .eq, value := 0 }

/-- `ST.HALT` is set (70_reset_and_hazards.md R167, R171). -/
def HostCond.halted : HostCond := { reg := .halt, rel := .eq, value := 1 }

/-- `ST.ERR >= 2` (70_reset_and_hazards.md R167). -/
def HostCond.fatal : HostCond := { reg := .err, rel := .ge, value := 2 }

/-- `ST.ERR = 1`, the rejection of 60_exceptions.md R154. -/
def HostCond.formatError : HostCond := { reg := .err, rel := .eq, value := 1 }

/-- One step of a host program (70_reset_and_hazards.md R172). -/
inductive HostStep where
  /-- Present a command word. -/
  | present (w : CommandWord)
  /-- Assert reset. -/
  | reset
  /-- Read a register. -/
  | read (r : HostReg)
  /-- Read, and go on only if the condition holds; else the host stops (70_reset_and_hazards.md R171). -/
  | compare (c : HostCond)
  /-- Read, and do the next `n` steps only if the condition holds; else the host goes on after them
  (70_reset_and_hazards.md R171). -/
  | onlyIf (c : HostCond) (n : Nat)
  /-- End the run. -/
  | stop
deriving DecidableEq, Repr

/-- A host run: the engine, what the host has read so far, oldest first, how many of the next steps the host passes over,
and whether the host has stopped. -/
structure HostRun where
  engine : State
  log : List (HostReg × Nat)
  passOver : Nat
  stopped : Bool
deriving DecidableEq, Repr

/-- The run after the engine's step. -/
def HostRun.afterInput (h : HostRun) : Host.Outcome State Fault Refusal → Host.Outcome HostRun Fault Refusal
  | .next s => .next { h with engine := s }
  | .fault r => .fault r
  | .refused r => .refused r

/-- What the host reads now. The n-th read of a run uses the n-th free value. -/
def HostRun.look (h : HostRun) (r : HostReg) : Nat := hostRead h.log.length r h.engine

/-- The run after a read. -/
def HostRun.noted (h : HostRun) (r : HostReg) : HostRun := { h with log := h.log ++ [(r, h.look r)] }

/-- Whether a condition holds now. -/
def HostRun.test (h : HostRun) (c : HostCond) : Bool := c.rel.holds (h.look c.reg) c.value

/-- One host step. -/
def HostRun.act (h : HostRun) : HostStep → Host.Outcome HostRun Fault Refusal
  | .present w => h.afterInput (deliver (.present w) h.engine)
  | .reset => h.afterInput (deliver .reset h.engine)
  | .read r => .next (h.noted r)
  | .compare c => .next { h.noted c.reg with stopped := !h.test c }
  | .onlyIf c n => .next { h.noted c.reg with passOver := if h.test c then 0 else n }
  | .stop => .next { h with stopped := true }

/-- A host program runs until its list is exhausted or the host stops (70_reset_and_hazards.md R172). -/
def HostRun.exec : List HostStep → HostRun → Host.Outcome HostRun Fault Refusal
  | [], h => .next h
  | x :: rest, h =>
    if h.stopped then .next h
    else if 0 < h.passOver then HostRun.exec rest { h with passOver := h.passOver - 1 }
    else match h.act x with
      | .next h' => HostRun.exec rest h'
      | .fault r => .fault r
      | .refused r => .refused r

/-- A host program from a given engine state, nothing read yet. -/
def runHost (p : List HostStep) (s : State) : Host.Outcome HostRun Fault Refusal :=
  HostRun.exec p { engine := s, log := [], passOver := 0, stopped := false }

/-- `PIPE "s"`: `VERIFYQ`, and `ENCODE` only if `RB == 1`; else the host stops, which is the rejection
(30_encoding.md R71, 70_reset_and_hazards.md R165). -/
def pipe (str : List CharCell) : List HostStep :=
  [.present (assemble .verifyq str), .compare .valid, .present (assemble .encode str)]

/-- `MKID "p"`: `CHKD`, and the host reads `RD` (30_encoding.md R71). -/
def mkid (pre : List CharCell) : List HostStep :=
  [.present (assemble .chkd pre), .read .rd]

/-- The identifier `MKID` forms: the prefix followed by the character with code `0x30 + RD` (30_encoding.md R71). -/
def mkidIdentifier (pre : List CharCell) (rd : Nat) : List CharCell :=
  pre ++ [e13.zeroCode + BitVec.ofNat 8 rd]

/-- `CHKV "s"`: `VERIFYQ`, and if `RB == 1` then `VERIFY` and the host reads `RD` (30_encoding.md R71). -/
def chkv (str : List CharCell) : List HostStep :=
  [.present (assemble .verifyq str), .compare .valid, .present (assemble .verify str), .read .rd]

end Sys2Proof.Machine
end

