-- ==== Sys2Proof/Machine/Platform.lean ====
section
/-! DEFINITION. A platform of several engines (60_exceptions.md R153): each has its own command port and registers; they
share only the ROMs and constants, which no step can write. Which engine moves next is an argument of the step: the spec
gives no order between engines (20_memory.md R51). -/

namespace Sys2Proof.Machine

/-- The engines of a platform; an engine's place in the list is not visible to commands (60_exceptions.md R153). -/
structure Platform where
  engines : List State
deriving DecidableEq, Repr

/-- All engines start in the same reset state (60_exceptions.md R153). -/
def Platform.reset (n : Nat) : Platform := { engines := List.replicate n State.reset }

/-- The platform E13 takes, with `N_ENGINES` engines (00_scope.md R8). -/
def Platform.e13Reset : Platform := Platform.reset e13.nEngines

/-- Asserting reset gives every engine its reset values (70_reset_and_hazards.md R160). -/
def Platform.assertReset (p : Platform) : Platform := { engines := p.engines.map Sys2Proof.Machine.assertReset }

/-- Engine `k` takes its host's next input. A command touches that engine alone; a reset reaches every engine. -/
def Platform.step (k : Nat) (p : Platform) : Host.Outcome Platform Fault Refusal :=
  match p.engines[k]? with
  | none => .fault .noSuchEngine
  | some s =>
    match takeInput s with
    | some (.reset, s') => .next (Platform.assertReset { engines := p.engines.set k s' })
    | _ =>
      match Sys2Proof.Machine.step s with
      | .next t => .next { engines := p.engines.set k t }
      | .fault r => .fault r
      | .refused r => .refused r

/-- The platform under a schedule: the engines that move, in order. -/
def Platform.run : List Nat → Platform → Host.Outcome Platform Fault Refusal
  | [], p => .next p
  | k :: rest, p =>
    match p.step k with
    | .next q => Platform.run rest q
    | .fault r => .fault r
    | .refused r => .refused r

end Sys2Proof.Machine
end

