-- ==== Sys2Proof/Safety.lean ====
section
/-! DEFINITION. The terms claims use: the invariant of a state, a run that has gone wrong, and two engines that the host
cannot tell apart. -/

namespace Sys2Proof.Machine

/-- The candidate is well-formed for length `n`, in the words of 30_encoding.md R65 and R66: `LEN` is `n` and each of the
first `n` cells has a code from 0x30 to 0x39. -/
abbrev Candidate (n : Nat) (len : Len) (ch : Cells) : Prop :=
  len.toNat = n ∧ ∀ i : Fin 13, i.val < n → 0x30 ≤ ch[i].toNat ∧ ch[i].toNat ≤ 0x39

/-- The digit a digit character stands for (30_encoding.md R65). -/
def digitValue (x : CharCell) : Nat := x.toNat - 0x30

/-- The weighted sum of the first twelve cells, as 40_checksum.md R82 writes it out for `W_STD`. -/
def stdSum (ch : Cells) : Nat :=
  (digitValue ch[0] + digitValue ch[2] + digitValue ch[4] + digitValue ch[6] + digitValue ch[8] + digitValue ch[10])
    + 3 * (digitValue ch[1] + digitValue ch[3] + digitValue ch[5] + digitValue ch[7] + digitValue ch[9]
      + digitValue ch[11])

/-- The check digit of the first twelve cells (40_checksum.md R83). -/
def stdCheck (ch : Cells) : Nat := (10 - stdSum ch % 10) % 10

/-- A string that is a checksum-valid identifier under `W_STD`: thirteen digit characters, the last of them the check
digit of the first twelve (00_scope.md glossary, 40_checksum.md R85). -/
abbrev ValidIdentifier (str : List CharCell) : Prop :=
  str.length = 13 ∧ (∀ x ∈ str, 0x30 ≤ x.toNat ∧ x.toNat ≤ 0x39) ∧
    stdCheck (assembleCells str) = digitValue (str.getD 12 0#8)

/-- A command that can halt the engine: a reserved `OP`, or `CHKD` on a malformed prefix (60_exceptions.md R150). -/
def FatalCommand : Instr → Prop
  | .chkd len ch => ¬ Candidate 12 len ch
  | .verify _ _ => False
  | .verifyq _ _ => False
  | .encode _ _ => False
  | .reserved _ _ _ => True

/-- What `ST`, `RD` and `SYM` always satisfy once the engine has been reset. -/
structure State.Consistent (s : State) : Prop where
  /-- `HALT` is set exactly while `ERR` holds a fatal code (60_exceptions.md R143, R145). -/
  haltFatal : s.st.halt = true ↔ ∃ e, s.st.err = some e ∧ e.fatal = true
  /-- An exception leaves no valid flag (60_exceptions.md R145). -/
  failedNoResult : s.st.err ≠ none → s.st.bv = false ∧ s.st.dv = false ∧ s.st.sv = false
  /-- `RD` is in 0..=9 whenever `ST.DV = 1` (10_state.md R26). -/
  digitRange : s.st.dv = true → s.rd.toNat ≤ 9
  /-- No command answers with a symbol and a scalar (10_state.md R29). -/
  symbolAlone : s.st.sv = true → s.st.bv = false ∧ s.st.dv = false
  /-- A valid `SYM` is the whole symbol of thirteen digits, never part of one (10_state.md R27). -/
  symbolWhole : s.st.sv = true →
    ∃ d : Vector Digit 13, (∀ i : Fin 13, d[i].toNat ≤ 9) ∧ encode13 e13 d = .ok s.sym

/-- The invariant of a step: before the first reset nothing is promised (70_reset_and_hazards.md R161). -/
def State.Inv (s : State) : Prop := s.live = true → s.Consistent

/-- A run that has reached this state has gone wrong (60_exceptions.md R143, 70_reset_and_hazards.md R172). -/
def State.GoneWrong (s : State) : Prop := s.st.halt = true

/-- A run of `k` steps is safe: it gets that far, and no state on the way has gone wrong
(70_reset_and_hazards.md R172). -/
def SafeRun (k : Nat) (s : State) : Prop :=
  ∀ j ≤ k, ∃ t, Host.Core.run Sys2Proof.core j s = .next t ∧ ¬ t.GoneWrong

/-- The same to a host that reads only registers whose valid flag is 1 (70_reset_and_hazards.md R166). -/
structure SameResults (s t : State) : Prop where
  st : s.st = t.st
  rb : s.st.bv = true → s.rb = t.rb
  rd : s.st.dv = true → s.rd = t.rd
  sym : s.st.sv = true → s.sym = t.sym

end Sys2Proof.Machine
end

