-- ==== Sys2Proof/Certificates/Slice0/Obligations.lean ====
section
/-! DEFINITION. The statements for the provers. Each docstring names the rule of spec/ it formalises. In the statements about a
command, a running engine is one with `ST.HALT = 0`; what the command leaves unchanged is under Frames. E13 has no writable memory
(20_memory.md R41) and State holds none. -/

open Sys2Proof Sys2Proof.Machine

/-! ### Encoding -/

/-- Decoding the word of any well-formed instruction gives the instruction back, every field at every value. -/
def Obligations.DecodeOfEncodeIsTheInstruction : Prop :=
  ∀ i : Instr, i.wf = true → decode (encode i) = i

/-- Every 112-bit word is the encoding of the one well-formed instruction it decodes to. -/
def Obligations.EncodeOfDecodeIsTheWord : Prop :=
  ∀ w : CommandWord, (decode w).wf = true ∧ encode (decode w) = w

/-- 30_encoding.md R72 (with R61): what is decoded from every word, the word read as a number. -/
def Obligations.DecodeReadsOpLenAndCells : Prop :=
  ∀ w : CommandWord, ∃ (len : Len) (ch : Cells),
    len.toNat = w.toNat / 2 ^ 104 % 32 ∧
    (∀ i : Fin 13, ch[i].toNat = w.toNat / 2 ^ (96 - 8 * i.val) % 256) ∧
    (w.toNat / 2 ^ 109 = 0 → decode w = .chkd len ch) ∧
    (w.toNat / 2 ^ 109 = 1 → decode w = .verify len ch) ∧
    (w.toNat / 2 ^ 109 = 2 → decode w = .verifyq len ch) ∧
    (w.toNat / 2 ^ 109 = 3 → decode w = .encode len ch) ∧
    (4 ≤ w.toNat / 2 ^ 109 → ∃ op : BitVec 3, op.toNat = w.toNat / 2 ^ 109 ∧ decode w = .reserved op len ch)

/-- 30_encoding.md R70: the two worked words, assembled and decoded; and one word of each other row, from
95_test_vectors.md 2.2, 2.5 and 2.4. -/
def Obligations.SpecWordsDecode : Prop :=
  assemble .verifyq [0x34, 0x30, 0x30, 0x36, 0x33, 0x38, 0x31, 0x33, 0x33, 0x33, 0x39, 0x33, 0x31]
    = 0x4D34303036333831333333393331#112 ∧
  assemble .chkd [0x34, 0x30, 0x30, 0x36, 0x33, 0x38, 0x31, 0x33, 0x33, 0x33, 0x39, 0x33]
    = 0x0C34303036333831333333393300#112 ∧
  decode 0x4D34303036333831333333393331#112
    = .verifyq 13#5 #v[0x34, 0x30, 0x30, 0x36, 0x33, 0x38, 0x31, 0x33, 0x33, 0x33, 0x39, 0x33, 0x31] ∧
  decode 0x0C34303036333831333333393300#112
    = .chkd 12#5 #v[0x34, 0x30, 0x30, 0x36, 0x33, 0x38, 0x31, 0x33, 0x33, 0x33, 0x39, 0x33, 0x00] ∧
  decode 0x2D34303036333831333333393331#112
    = .verify 13#5 #v[0x34, 0x30, 0x30, 0x36, 0x33, 0x38, 0x31, 0x33, 0x33, 0x33, 0x39, 0x33, 0x31] ∧
  decode 0x6D34303036333831333333393331#112
    = .encode 13#5 #v[0x34, 0x30, 0x30, 0x36, 0x33, 0x38, 0x31, 0x33, 0x33, 0x33, 0x39, 0x33, 0x31] ∧
  decode 0xBFFFFFFFFFFFFFFFFFFFFFFFFFFF#112
    = .reserved 5#3 31#5 #v[0xFF, 0xFF, 0xFF, 0xFF, 0xFF, 0xFF, 0xFF, 0xFF, 0xFF, 0xFF, 0xFF, 0xFF, 0xFF]

/-- 30_encoding.md R64 and R68: ignored cells change no result: `CH[12]` in `CHKD`, every cell of a candidate whose `LEN` is
not the required one, and everything but `OP` in a reserved word. -/
def Obligations.IgnoredCellsChangeNothing : Prop :=
  ∀ (s : State) (len : Len) (ch ch' : Cells),
    ((∀ i : Fin 13, i.val < 12 → ch[i] = ch'[i]) → exec (.chkd len ch) s = exec (.chkd len ch') s) ∧
    (len.toNat ≠ 12 → exec (.chkd len ch) s = exec (.chkd len ch') s) ∧
    (len.toNat ≠ 13 → exec (.verify len ch) s = exec (.verify len ch') s ∧
      exec (.verifyq len ch) s = exec (.verifyq len ch') s ∧ exec (.encode len ch) s = exec (.encode len ch') s) ∧
    (∀ (op op' : BitVec 3) (len' : Len), exec (.reserved op len ch) s = exec (.reserved op' len' ch') s)

/-- 30_encoding.md R66: `wellformed(n)` is `LEN == n` and a digit character in each of the first `n` cells, and the command's
digits are then those of its cells. -/
def Obligations.WellformedIffDigitCharacters : Prop :=
  ∀ (n : Nat) (len : Len) (ch : Cells),
    (wellformed e13 n len ch = true ↔ Candidate n len ch) ∧
    (wellformed e13 n len ch = true → ∀ i : Fin 13, i.val < n →
      (digits e13 ch)[i].toNat = ch[i].toNat - 0x30 ∧ (digits e13 ch)[i].toNat ≤ 9)

/-! ### The commands -/

/-- 40_checksum.md R86: `CHKD` on a running engine writes the check digit, or raises ContractViolation. -/
def Obligations.ChkdWritesCheckDigitOrRaises : Prop :=
  ∀ (len : Len) (ch : Cells) (s : State), s.st.halt = false →
    (Candidate 12 len ch → ∃ t, exec (.chkd len ch) s = .next t ∧
      t.rd = BitVec.ofNat 4 (stdCheck ch) ∧
      t.st = { bv := false, dv := true, sv := false, err := none, halt := false }) ∧
    (¬ Candidate 12 len ch → ∃ t, exec (.chkd len ch) s = .next t ∧
      t.rb = s.rb ∧ t.rd = s.rd ∧ t.sym = s.sym ∧
      t.st = { bv := false, dv := false, sv := false, err := some .contractViolation, halt := true })

/-- 40_checksum.md R87: `VERIFY` on a running engine writes the validity and the computed check digit, or raises FormatError. -/
def Obligations.VerifyWritesVerdictAndDigitOrRaises : Prop :=
  ∀ (len : Len) (ch : Cells) (s : State), s.st.halt = false →
    (Candidate 13 len ch → ∃ t, exec (.verify len ch) s = .next t ∧
      t.rb = decide (stdCheck ch = digitValue ch[12]) ∧ t.rd = BitVec.ofNat 4 (stdCheck ch) ∧
      t.st = { bv := true, dv := true, sv := false, err := none, halt := false }) ∧
    (¬ Candidate 13 len ch → ∃ t, exec (.verify len ch) s = .next t ∧
      t.rb = s.rb ∧ t.rd = s.rd ∧ t.sym = s.sym ∧
      t.st = { bv := false, dv := false, sv := false, err := some .formatError, halt := false })

/-- 40_checksum.md R88: `VERIFYQ` on a running engine writes the validity, false for a malformed candidate, and raises nothing, for
any operand. -/
def Obligations.VerifyqWritesVerdictAlways : Prop :=
  ∀ (len : Len) (ch : Cells) (s : State), s.st.halt = false →
    ∃ t, exec (.verifyq len ch) s = .next t ∧
      t.rb = decide (Candidate 13 len ch ∧ stdCheck ch = digitValue ch[12]) ∧
      t.st = { bv := true, dv := false, sv := false, err := none, halt := false }

/-- 42_framer.md R125: `ENCODE` on a running engine writes the symbol of the thirteen digits its cells stand for, or raises
FormatError. What `encode13` is, module by module, is `SymbolLayout`. -/
def Obligations.EncodeWritesSymbolOrRaises : Prop :=
  ∀ (len : Len) (ch : Cells) (s : State), s.st.halt = false →
    (Candidate 13 len ch →
      ∀ d : Vector Digit 13, (∀ i : Fin 13, d[i].toNat = digitValue ch[i]) →
        ∃ t, exec (.encode len ch) s = .next t ∧ encode13 e13 d = .ok t.sym ∧
          t.st = { bv := false, dv := false, sv := true, err := none, halt := false }) ∧
    (¬ Candidate 13 len ch → ∃ t, exec (.encode len ch) s = .next t ∧
      t.rb = s.rb ∧ t.rd = s.rd ∧ t.sym = s.sym ∧
      t.st = { bv := false, dv := false, sv := false, err := some .formatError, halt := false })

/-- 60_exceptions.md R144: a reserved `OP` raises IllegalCommand, whatever the other bits hold: as a constructor, and for every
word with `OP` 4 to 7. -/
def Obligations.ReservedOpRaisesIllegalCommand : Prop :=
  ∀ s : State, s.st.halt = false →
    (∀ (op : BitVec 3) (len : Len) (ch : Cells), ∃ t, exec (.reserved op len ch) s = .next t ∧
      t.rb = s.rb ∧ t.rd = s.rd ∧ t.sym = s.sym ∧
      t.st = { bv := false, dv := false, sv := false, err := some .illegalCommand, halt := true }) ∧
    (∀ w : CommandWord, 4 ≤ w.toNat / 2 ^ 109 → ∃ t, exec (decode w) s = .next t ∧
      t.rb = s.rb ∧ t.rd = s.rd ∧ t.sym = s.sym ∧
      t.st = { bv := false, dv := false, sv := false, err := some .illegalCommand, halt := true })

/-! ### Frames -/

/-- The frame of the checksum commands (40_checksum.md R94, 10_state.md R25 to R27): `CHKD` writes no register but `RD`, `VERIFY`
none but `RB` and `RD`, `VERIFYQ` none but `RB`, a malformed `CHKD` or `VERIFY` none; `HALT` changes under a malformed `CHKD` alone. That a latch
which is not written stays as it was is the model's reading (notes/assumptions/4.md). -/
def Obligations.ChecksumCommandsFrame : Prop :=
  ∀ (len : Len) (ch : Cells) (s t : State),
    (exec (.chkd len ch) s = .next t →
      t.rb = s.rb ∧ t.sym = s.sym ∧ t.live = s.live ∧ t.inputs = s.inputs ∧
      (Candidate 12 len ch → t.st.halt = s.st.halt) ∧ (¬ Candidate 12 len ch → t.rd = s.rd)) ∧
    (exec (.verify len ch) s = .next t →
      t.sym = s.sym ∧ t.live = s.live ∧ t.inputs = s.inputs ∧ t.st.halt = s.st.halt ∧
      (¬ Candidate 13 len ch → t.rb = s.rb ∧ t.rd = s.rd)) ∧
    (exec (.verifyq len ch) s = .next t →
      t.rd = s.rd ∧ t.sym = s.sym ∧ t.live = s.live ∧ t.inputs = s.inputs ∧ t.st.halt = s.st.halt)

/-- The frame of `ENCODE` and of a reserved word (42_framer.md R125, R126, 60_exceptions.md R145): `ENCODE` writes no register but
`SYM` and never `HALT`, and a malformed one and a reserved word write no result register. That a latch which is not written stays as it was is
the model's reading (notes/assumptions/4.md). -/
def Obligations.EncodeAndReservedFrame : Prop :=
  ∀ (op : BitVec 3) (len : Len) (ch : Cells) (s t : State),
    (exec (.encode len ch) s = .next t →
      t.rb = s.rb ∧ t.rd = s.rd ∧ t.live = s.live ∧ t.inputs = s.inputs ∧ t.st.halt = s.st.halt ∧
      (¬ Candidate 13 len ch → t.sym = s.sym)) ∧
    (exec (.reserved op len ch) s = .next t →
      t.rb = s.rb ∧ t.rd = s.rd ∧ t.sym = s.sym ∧ t.live = s.live ∧ t.inputs = s.inputs)

/-! ### Exceptions -/

/-- 60_exceptions.md R150: which command can raise what, on a running engine. -/
def Obligations.ExceptionTable : Prop :=
  ∀ (op : BitVec 3) (len : Len) (ch : Cells) (s t : State), s.st.halt = false →
    (exec (.chkd len ch) s = .next t →
      t.st.err = if Candidate 12 len ch then none else some .contractViolation) ∧
    (exec (.verify len ch) s = .next t → t.st.err = if Candidate 13 len ch then none else some .formatError) ∧
    (exec (.verifyq len ch) s = .next t → t.st.err = none) ∧
    (exec (.encode len ch) s = .next t → t.st.err = if Candidate 13 len ch then none else some .formatError) ∧
    (exec (.reserved op len ch) s = .next t → t.st.err = some .illegalCommand)

/-- 60_exceptions.md R143: codes 2 and 3 set `HALT`; a halted engine takes no command and nothing changes; only reset clears
`HALT`. That presenting a command to a halted engine is a next state and no stop is the model's reading
(notes/assumptions/8.md). -/
def Obligations.FatalHaltsUntilReset : Prop :=
  (∀ (i : Instr) (s t : State), s.st.halt = false → exec i s = .next t →
    (t.st.halt = true ↔ t.st.err = some .contractViolation ∨ t.st.err = some .illegalCommand)) ∧
  (∀ (i : Instr) (s : State), s.st.halt = true → exec i s = .next s) ∧
  (∀ s t : State, s.st.halt = true → step s = .next t → t.st.halt = false → ∃ rest, s.inputs = .reset :: rest)

/-- 60_exceptions.md R145: a command that raises `E` leaves `ERR` at its code, sets `HALT` if it is fatal, leaves the valid flags
0 and writes no result register; the host sees the code in bits 4:3 of `ST`. -/
def Obligations.RaiseWritesStatusOnly : Prop :=
  ∀ (i : Instr) (s t : State) (e : Exc), s.st.halt = false → exec i s = .next t → t.st.err = some e →
    t.st.bv = false ∧ t.st.dv = false ∧ t.st.sv = false ∧ (t.st.halt = true ↔ e ≠ .formatError) ∧
    t.rb = s.rb ∧ t.rd = s.rd ∧ t.sym = s.sym ∧ t.live = s.live ∧ t.inputs = s.inputs ∧
    (readST t).extractLsb' 3 2 =
      (match e with
        | .formatError => 1#2
        | .contractViolation => 2#2
        | .illegalCommand => 3#2)

/-- 60_exceptions.md R148: after a FormatError the engine is ready at once: presenting the same command again raises it again,
and every other command answers as if the failed one had never been presented. -/
def Obligations.FormatErrorLeavesNoTrace : Prop :=
  ∀ (i j : Instr) (s t : State), s.st.halt = false → exec i s = .next t → t.st.err = some .formatError →
    (∃ u, exec i t = .next u ∧ u.st.err = some .formatError) ∧
    (∃ u v, exec j t = .next u ∧ exec j s = .next v ∧ SameResults u v)

/-! ### The state -/

/-- 00_scope.md R3: what a taken command answers depends on the command alone, not on the state it finds. -/
def Obligations.ResultsDependOnCommandAlone : Prop :=
  ∀ (i : Instr) (s₁ s₂ t₁ t₂ : State), s₁.st.halt = false → s₂.st.halt = false →
    exec i s₁ = .next t₁ → exec i s₂ = .next t₂ → SameResults t₁ t₂

/-- 10_state.md R24: the fields of the byte a host reads from `ST`, bits 7:6 zero in every state. -/
def Obligations.StatusByteLayout : Prop :=
  ∀ s : State,
    (readST s).getLsbD 0 = s.st.bv ∧ (readST s).getLsbD 1 = s.st.dv ∧ (readST s).getLsbD 2 = s.st.sv ∧
    (readST s).getLsbD 5 = s.st.halt ∧ (readST s).getLsbD 6 = false ∧ (readST s).getLsbD 7 = false ∧
    (s.st.err = none → (readST s).extractLsb' 3 2 = 0#2) ∧
    (s.st.err = some .formatError → (readST s).extractLsb' 3 2 = 1#2) ∧
    (s.st.err = some .contractViolation → (readST s).extractLsb' 3 2 = 2#2) ∧
    (s.st.err = some .illegalCommand → (readST s).extractLsb' 3 2 = 3#2)

/-- 10_state.md R29, the column of `ST`: the byte after each outcome on a running engine. -/
def Obligations.StatusByteOfEachOutcome : Prop :=
  ∀ (op : BitVec 3) (len : Len) (ch : Cells) (s t : State), s.st.halt = false →
    (exec (.chkd len ch) s = .next t → readST t = if Candidate 12 len ch then 0x02#8 else 0x30#8) ∧
    (exec (.verify len ch) s = .next t → readST t = if Candidate 13 len ch then 0x03#8 else 0x08#8) ∧
    (exec (.verifyq len ch) s = .next t → readST t = 0x01#8) ∧
    (exec (.encode len ch) s = .next t → readST t = if Candidate 13 len ch then 0x04#8 else 0x08#8) ∧
    (exec (.reserved op len ch) s = .next t → readST t = 0x38#8)

/-- 10_state.md R30: a register whose flag is 1 is read as it is, and a read of one whose flag is 0 says nothing of the latch. That
the read answers a free value and does not stop is the model's choice (notes/assumptions/3.md). -/
def Obligations.InvalidRegisterReadsSayNothing : Prop :=
  ∀ (s : State) (k : Nat) (b : Bool) (d : Digit) (y : Symbol),
    (s.st.bv = true → readRB k s = s.rb) ∧ (s.st.bv = false → readRB k { s with rb := b } = readRB k s) ∧
    (s.st.dv = true → readRD k s = s.rd) ∧ (s.st.dv = false → readRD k { s with rd := d } = readRD k s) ∧
    (s.st.sv = true → readSYM k s = s.sym) ∧ (s.st.sv = false → readSYM k { s with sym := y } = readSYM k s)

/-- 10_state.md R27 and 42_framer.md R125: `SV` is set by a well-formed `ENCODE` alone, which writes all 95 modules of the symbol of
its digits (`SymbolLayout` says which modules these are). That `SYM` does not change under another command that succeeds is the
model's reading (notes/assumptions/4.md). -/
def Obligations.SymbolWrittenWholeOrNotAtAll : Prop :=
  ∀ (i : Instr) (s t : State), s.st.halt = false → exec i s = .next t →
    (t.st.sv = true ↔ ∃ len ch, i = .encode len ch ∧ Candidate 13 len ch) ∧
    (∀ len ch, i = .encode len ch → Candidate 13 len ch →
      ∃ d : Vector Digit 13, (∀ j : Fin 13, d[j].toNat = digitValue ch[j]) ∧ encode13 e13 d = .ok t.sym) ∧
    (t.sym ≠ s.sym → t.st.sv = true)

/-- Every step keeps the invariant of the state (Safety.lean), from every state that meets it. -/
def Obligations.StepKeepsInvariant : Prop :=
  ∀ s t : State, s.Inv → step s = .next t → t.Inv

/-- The state after reset meets the invariant, is one of which it promises something, and has `ST = 0x00` (10_state.md R34). -/
def Obligations.ResetMeetsInvariant : Prop :=
  State.reset.Inv ∧ State.reset.live = true ∧ readST State.reset = 0x00#8

/-- A run reaches no halted state while every command presented is one that cannot raise a fatal exception
(60_exceptions.md R143, R150, 70_reset_and_hazards.md R172). -/
def Obligations.RunsWithoutFatalCommandsAreSafe : Prop :=
  ∀ s : State, s.live = true → s.st.halt = false →
    (∀ w, HostInput.present w ∈ s.inputs → ¬ FatalCommand (decode w)) → ∀ k, SafeRun k s

/-! ### Steps and reset -/

/-- A step runs the presented command: when a word is presented to an engine that has been reset, the step is `exec` of the
decoded instruction, with the word taken off the host's list; and of `i`, when the word is the encoding of `i`. -/
def Obligations.StepRunsThePresentedCommand : Prop :=
  ∀ (s : State) (rest : List HostInput), s.live = true →
    (∀ w, s.inputs = .present w :: rest → step s = exec (decode w) { s with inputs := rest }) ∧
    (∀ i : Instr, i.wf = true → s.inputs = .present (encode i) :: rest → step s = exec i { s with inputs := rest })

/-- A word placed by `withFetchWord`, the model's stand-in for presenting a command (notes/assumptions/12.md), is the one the very
next step runs. -/
def Obligations.PlacedWordRunsNext : Prop :=
  ∀ (s : State) (w : Nat), w < 2 ^ 112 →
    decodeTableWord 112 w = some (decode (BitVec.ofNat 112 w)) ∧
    step (s.withFetchWord 112 w) = exec (decode (BitVec.ofNat 112 w)) { s with live := true }

/-- The inputs leave the host's list in their order, one a step (20_memory.md R51 (a)), and on a halted engine a presented command
leaves it too, not taken and without effect (60_exceptions.md R143); so the list drains. The list and the passing over of a command
on a halted engine are the model's choices (notes/assumptions/1.md and 8.md). -/
def Obligations.EveryInputLeavesTheList : Prop :=
  (∀ s t : State, step s = .next t → t.inputs = s.inputs.tail) ∧
  (∀ (s : State) (w : CommandWord) (rest : List HostInput), s.live = true → s.st.halt = true →
    s.inputs = .present w :: rest → step s = .next { s with inputs := rest }) ∧
  (∀ s : State, s.live = true →
    ∃ t, Host.Core.run Sys2Proof.core s.inputs.length s = .next t ∧ t.inputs = [] ∧ t.live = true)

/-- 70_reset_and_hazards.md R170 with 20_memory.md R51 (a): a command presented to an engine that is not halted completes: in the one step
it leaves a valid result or an exception, never both, and the host's later inputs stay in their order. That these stand in a list is the
model's choice (notes/assumptions/1.md). -/
def Obligations.PresentedCommandCompletes : Prop :=
  ∀ (s : State) (w : CommandWord) (rest : List HostInput), s.live = true → s.st.halt = false →
    s.inputs = .present w :: rest →
    ∃ t, step s = .next t ∧ t.live = true ∧ t.inputs = rest ∧
      (t.st.err = none ↔ t.st.bv = true ∨ t.st.dv = true ∨ t.st.sv = true)

/-- 10_state.md R23: with nothing presented the engine waits (the model's reading, notes/assumptions/9.md). -/
def Obligations.IdleEngineWaits : Prop :=
  ∀ s : State, s.inputs = [] → step s = .next s

/-- 70_reset_and_hazards.md R160, R161 and 10_state.md R34: asserting reset in any state whatever, halted or not, before or after the
first reset, gives `ST = 0x00` and an engine that takes commands. -/
def Obligations.ResetFromAnyState : Prop :=
  ∀ (s : State) (rest : List HostInput), s.inputs = .reset :: rest →
    ∃ t, step s = .next t ∧ readST t = 0x00#8 ∧ t.live = true ∧ t.inputs = rest ∧
      ∀ i : Instr, ∃ u, exec i t = .next u ∧ u ≠ t

/-- A command presented between power-on and the first reset is refused (70_reset_and_hazards.md R161, U8;
notes/assumptions/10.md). -/
def Obligations.CommandBeforeResetIsRefused : Prop :=
  ∀ (s : State) (w : CommandWord) (rest : List HostInput), s.live = false → s.inputs = .present w :: rest →
    step s = .refused .beforeReset

/-! ### Laws of the checksum -/

/-- 40_checksum.md R82 (and the bound of R84): the weighted sum, written out for both values of `W`. -/
def Obligations.WeightedSumWrittenOut : Prop :=
  ∀ d : Vector Digit 12,
    wsum e13 d =
      (d[0].toNat + d[2].toNat + d[4].toNat + d[6].toNat + d[8].toNat + d[10].toNat)
        + 3 * (d[1].toNat + d[3].toNat + d[5].toNat + d[7].toNat + d[9].toNat + d[11].toNat) ∧
    wsum e13Doc d =
      3 * (d[0].toNat + d[2].toNat + d[4].toNat + d[6].toNat + d[8].toNat + d[10].toNat)
        + (d[1].toNat + d[3].toNat + d[5].toNat + d[7].toNat + d[9].toNat + d[11].toNat) ∧
    ((∀ i : Fin 12, d[i].toNat ≤ 9) → wsum e13 d ≤ 216 ∧ wsum e13Doc d ≤ 216)

/-- 40_checksum.md R83: the check digit, for every configuration, by its formula and as the unique digit that completes the sum to a
multiple of 10. -/
def Obligations.CheckDigitIsTheCompletingDigit : Prop :=
  ∀ (c : Config) (d : Vector Digit 12),
    (checkdigit c d).toNat = (10 - wsum c d % 10) % 10 ∧ (checkdigit c d).toNat ≤ 9 ∧
    ∀ x : Nat, x ≤ 9 → ((wsum c d + x) % 10 = 0 ↔ x = (checkdigit c d).toNat)

/-- 40_checksum.md R85: verification compares the check digit of the first twelve digits with the thirteenth, equivalently the whole
sum is a multiple of 10; for every configuration. -/
def Obligations.VerificationIsDivisibility : Prop :=
  ∀ (c : Config) (d : Vector Digit 13) (p : Vector Digit 12), (∀ i : Fin 12, p[i] = d[i.castSucc]) → d[12].toNat ≤ 9 →
    (verify13 c d = true ↔ checkdigit c p = d[12]) ∧ (verify13 c d = true ↔ (wsum c p + d[12].toNat) % 10 = 0)

/-- 40_checksum.md R90: appending the check digit `CHKD` gives makes an identifier `VERIFYQ` accepts, for every value of `W`. -/
def Obligations.CheckDigitRoundTrip : Prop :=
  ∀ (w : Vector Nat 12) (ch : Cells) (s s' t : State), s.st.halt = false → s'.st.halt = false → Candidate 12 12#5 ch →
    takeCommand (chkdEffect { e13 with w := w } 12#5 ch) s = .next t →
    ∃ u, takeCommand (verifyqEffect { e13 with w := w } 13#5 (ch.set 12 (0x30#8 + t.rd.setWidth 8))) s' = .next u ∧
      u.st.bv = true ∧ u.rb = true

/-- 40_checksum.md R91: whenever the weights are 1 or 3, every change of one prefix digit changes the check digit; and under either value of
`W` the exchange of two different neighbours goes undetected exactly when they differ by 5. -/
def Obligations.TamperingDetected : Prop :=
  ∀ (c : Config) (d : Vector Digit 12), (∀ i : Fin 12, d[i].toNat ≤ 9) →
    (c.WeightsOneOrThree →
      ∀ (i : Fin 12) (v : Digit), v.toNat ≤ 9 → v ≠ d[i] → checkdigit c (d.set i v) ≠ checkdigit c d) ∧
    (c = e13 ∨ c = e13Doc →
      ∀ (i : Nat) (h : i + 1 < 12), d[i] ≠ d[i + 1] →
        (checkdigit c ((d.set i d[i + 1]).set (i + 1) d[i]) = checkdigit c d ↔
          d[i].toNat + 5 = d[i + 1].toNat ∨ d[i + 1].toNat + 5 = d[i].toNat))

/-- 40_checksum.md R93: `VERIFYQ` is `VERIFY` with the malformed outcome folded into false. -/
def Obligations.VerifyqFoldsVerify : Prop :=
  ∀ (len : Len) (ch : Cells) (s₁ s₂ t₁ t₂ : State), s₁.st.halt = false → s₂.st.halt = false →
    exec (.verify len ch) s₁ = .next t₁ → exec (.verifyq len ch) s₂ = .next t₂ →
    (t₂.rb = true ↔ t₁.st.err = none ∧ t₁.rb = true)

/-- 40_checksum.md R92: thirteen zeros verify, for every configuration. -/
def Obligations.AllZerosVerifies : Prop :=
  ∀ (c : Config) (d : Vector Digit 13), (∀ i : Fin 13, d[i] = 0#4) → verify13 c d = true

/-- 20_memory.md R44, 40_checksum.md R94, 42_framer.md R126: the checksum commands read no ROM, and `ENCODE` does not use the weights: with
other tables, or other weights, each does the same. -/
def Obligations.UnitsShareNothing : Prop :=
  ∀ (c : Config) (lodd leven reven : Vector ModuleCode 10) (par : Vector SelectorWord 10) (w : Vector Nat 12)
    (len : Len) (ch : Cells) (s : State),
    chkdEffect { c with lodd := lodd, leven := leven, reven := reven, par := par } len ch s = chkdEffect c len ch s ∧
    verifyEffect { c with lodd := lodd, leven := leven, reven := reven, par := par } len ch s = verifyEffect c len ch s ∧
    verifyqEffect { c with lodd := lodd, leven := leven, reven := reven, par := par } len ch s = verifyqEffect c len ch s ∧
    encodeEffect { c with w := w } len ch s = encodeEffect c len ch s

/-! ### The tables and the symbol -/

/-- 41_lut_parity.md R108 (with R42, R43): the lookups answer the whole word at 0..=9 and raise ContractViolation at 10..=15, for every
configuration. -/
def Obligations.LookupDomain : Prop :=
  ∀ (c : Config) (d : Digit),
    (∀ h : d.toNat < 10, parsel c d = .ok c.par[d.toNat] ∧ leftcode c .odd d = .ok c.lodd[d.toNat] ∧
      leftcode c .even d = .ok c.leven[d.toNat] ∧ rightcode c d = .ok c.reven[d.toNat]) ∧
    (10 ≤ d.toNat → parsel c d = .error .contractViolation ∧ rightcode c d = .error .contractViolation ∧
      ∀ p, leftcode c p d = .error .contractViolation)

/-- The contents of the four ROMs in the packed form of 95_test_vectors.md 2.6 (41_lut_parity.md R101, R102, R103, R105). -/
def Obligations.RomContents : Prop :=
  e13.lodd = #v[0x0D, 0x19, 0x13, 0x3D, 0x23, 0x31, 0x2F, 0x3B, 0x37, 0x0B] ∧
  e13.leven = #v[0x27, 0x33, 0x1B, 0x21, 0x1D, 0x39, 0x05, 0x11, 0x09, 0x17] ∧
  e13.reven = #v[0x72, 0x66, 0x6C, 0x42, 0x5C, 0x4E, 0x50, 0x44, 0x48, 0x74] ∧
  e13.par = #v[0x00, 0x0B, 0x0D, 0x0E, 0x13, 0x19, 0x1C, 0x15, 0x16, 0x1A]

/-- 41_lut_parity.md R110, its facts (a) to (g) in order: the codes differ; how they begin and end; the parity of their marked modules; `REVEN`
complements `LODD`; `LEVEN` is `REVEN` reversed; four runs each; and how the rows of `PAR` are made. -/
def Obligations.RomStructure : Prop :=
  (e13.lodd.toList ++ e13.leven.toList ++ e13.reven.toList).Nodup ∧
  (∀ d : Fin 10,
    moduleAt e13.lodd[d] 0 = false ∧ moduleAt e13.lodd[d] 6 = true ∧
    moduleAt e13.leven[d] 0 = false ∧ moduleAt e13.leven[d] 6 = true ∧
    moduleAt e13.reven[d] 0 = true ∧ moduleAt e13.reven[d] 6 = false) ∧
  (∀ d : Fin 10,
    (List.range 7).countP (moduleAt e13.lodd[d]) ∈ [3, 5] ∧ (List.range 7).countP (moduleAt e13.leven[d]) ∈ [2, 4] ∧
    (List.range 7).countP (moduleAt e13.reven[d]) ∈ [2, 4]) ∧
  (∀ (d : Fin 10) (j : Fin 7), moduleAt e13.reven[d] j = !moduleAt e13.lodd[d] j) ∧
  (∀ (d : Fin 10) (j : Fin 7), moduleAt e13.leven[d] j = moduleAt e13.reven[d] (6 - j)) ∧
  (∀ c ∈ e13.lodd.toList ++ e13.leven.toList ++ e13.reven.toList,
    (List.range 6).countP (fun j => moduleAt c j != moduleAt c (j + 1)) = 3) ∧
  (e13.par.toList.Nodup ∧ (∀ k : Fin 6, selector e13.par[0] k = .odd) ∧
    ∀ d : Fin 10, selector e13.par[d] 0 = .odd ∧
      (d ≠ 0 → (List.range 6).countP (fun k => selector e13.par[d] k == .odd) = 3))

/-- 42_framer.md R123 and R124: the symbol of thirteen digits, module by module: the guards at 0..=2, 45..=49 and 92..=94, the code of
`d[k+1]` under selector `k` of the row of `d[0]` at 3+7k..=9+7k, and the right code of `d[k+7]` at 50+7k..=56+7k. -/
def Obligations.SymbolLayout : Prop :=
  ∀ (d : Vector Digit 13) (h : ∀ i : Nat, (hi : i < 13) → d[i].toNat < 10), ∃ y, encode13 e13 d = .ok y ∧
    (moduleAt y 0 = true ∧ moduleAt y 1 = false ∧ moduleAt y 2 = true) ∧
    (∀ (k : Nat) (hk : k < 6) (j : Nat), j < 7 →
      moduleAt y (3 + 7 * k + j) =
        if moduleAt (e13.par[d[0].toNat]'(h 0 (by omega))) k
        then moduleAt (e13.leven[d[k + 1].toNat]'(h (k + 1) (by omega))) j
        else moduleAt (e13.lodd[d[k + 1].toNat]'(h (k + 1) (by omega))) j) ∧
    (moduleAt y 45 = false ∧ moduleAt y 46 = true ∧ moduleAt y 47 = false ∧ moduleAt y 48 = true ∧
      moduleAt y 49 = false) ∧
    (∀ (k : Nat) (hk : k < 6) (j : Nat), j < 7 →
      moduleAt y (50 + 7 * k + j) = moduleAt (e13.reven[d[k + 7].toNat]'(h (k + 7) (by omega))) j) ∧
    (moduleAt y 92 = true ∧ moduleAt y 93 = false ∧ moduleAt y 94 = true)

/-- 42_framer.md R127 (the guard's place as R123 corrects it): the shape of every symbol a well-formed `ENCODE` writes, as the host reads it module by module. -/
def Obligations.EverySymbolIsGuarded : Prop :=
  ∀ (len : Len) (ch : Cells) (s : State) (k : Nat), s.st.halt = false → Candidate 13 len ch →
    ∃ t, exec (.encode len ch) s = .next t ∧
      readModule k 0 t = true ∧ readModule k 1 t = false ∧ readModule k 2 t = true ∧
      readModule k 45 t = false ∧ readModule k 46 t = true ∧ readModule k 47 t = false ∧ readModule k 48 t = true ∧
      readModule k 49 t = false ∧
      readModule k 92 t = true ∧ readModule k 93 t = false ∧ readModule k 94 t = true

/-- 42_framer.md R130: with E13's tables, no two sequences of thirteen digits have the same symbol. -/
def Obligations.EncodingIsInjective : Prop :=
  ∀ (d d' : Vector Digit 13) (y : Symbol), (∀ i : Fin 13, d[i].toNat ≤ 9) → (∀ i : Fin 13, d'[i].toNat ≤ 9) →
    encode13 e13 d = .ok y → encode13 e13 d' = .ok y → d = d'

/-- 42_framer.md R126: `ENCODE` does not check the check digit: with any digit character in `CH[12]` it succeeds, and the symbol differs in
the last code alone, which is `REVEN` of that digit. -/
def Obligations.EncodeIgnoresCheckDigit : Prop :=
  ∀ (len : Len) (ch : Cells) (x : CharCell) (s : State), s.st.halt = false → Candidate 13 len ch →
    ∀ (_ : 0x30 ≤ x.toNat) (hx : x.toNat ≤ 0x39),
      ∃ t t', exec (.encode len ch) s = .next t ∧ exec (.encode len (ch.set 12 x)) s = .next t' ∧
        t'.st.sv = true ∧ t'.st.err = none ∧
        (∀ m : Nat, m < 95 → m < 85 ∨ 92 ≤ m → moduleAt t'.sym m = moduleAt t.sym m) ∧
        (∀ j : Nat, j < 7 → moduleAt t'.sym (85 + j) = moduleAt (e13.reven[x.toNat - 0x30]'(by omega)) j)

/-- 42_framer.md R129: thirteen zeros encode, six times `0001101` and six times `1110010` between the guards. -/
def Obligations.AllZerosEncodes : Prop :=
  ∀ (ch : Cells) (s : State), s.st.halt = false → (∀ i : Fin 13, ch[i] = 0x30#8) →
    ∃ t, exec (.encode 13#5 ch) s = .next t ∧ t.st.sv = true ∧ t.st.err = none ∧
      t.sym = 0b101#3 ++ 0b0001101#7 ++ 0b0001101#7 ++ 0b0001101#7 ++ 0b0001101#7 ++ 0b0001101#7 ++ 0b0001101#7
        ++ 0b01010#5 ++ 0b1110010#7 ++ 0b1110010#7 ++ 0b1110010#7 ++ 0b1110010#7 ++ 0b1110010#7 ++ 0b1110010#7 ++ 0b101#3

/-! ### The host and the platform -/

/-- 30_encoding.md R71, macro `PIPE`, with 70_reset_and_hazards.md R165: for every string, the host ends with a symbol if and only if the
string is a checksum-valid identifier, and the symbol is that identifier's. The form of host programs is the model's choice
(notes/assumptions/19.md). -/
def Obligations.PipeEncodesExactlyValidIdentifiers : Prop :=
  ∀ (str : List CharCell) (s : State), s.live = true → s.st.halt = false →
    ∃ h, runHost (pipe str) s = .next h ∧
      (ValidIdentifier str → h.stopped = false ∧ readST h.engine = 0x04#8 ∧
        ∀ d : Vector Digit 13, (∀ i : Fin 13, d[i].toNat = digitValue (str.getD i.val 0#8)) →
          encode13 e13 d = .ok h.engine.sym) ∧
      (¬ ValidIdentifier str → h.stopped = true ∧ readST h.engine = 0x01#8)

/-- 30_encoding.md R71, macro `MKID`, with 40_checksum.md R90: from every prefix of twelve digit characters the host reads one digit from
`RD`, and the identifier it forms is checksum-valid and accepted by `VERIFYQ`. The form of host programs is the model's choice
(notes/assumptions/19.md). -/
def Obligations.MkidMakesValidIdentifiers : Prop :=
  ∀ (pre : List CharCell) (s s' : State), s.live = true → s.st.halt = false → s'.live = true → s'.st.halt = false →
    pre.length = 12 → (∀ x ∈ pre, 0x30 ≤ x.toNat ∧ x.toNat ≤ 0x39) →
    ∃ h v, runHost (mkid pre) s = .next h ∧ h.log = [(.rd, v)] ∧ v ≤ 9 ∧ ValidIdentifier (mkidIdentifier pre v) ∧
      ∃ h', runHost [.present (assemble .verifyq (mkidIdentifier pre v)), .read .rb] s' = .next h' ∧ h'.log = [(.rb, 1)]

/-- 30_encoding.md R71, macro `CHKV`: for a checksum-valid string the host reads its check digit from `RD`; else it stops at the
verdict. The form of host programs is the model's choice (notes/assumptions/19.md). -/
def Obligations.ChkvReadsCheckDigitOfValidIdentifiers : Prop :=
  ∀ (str : List CharCell) (s : State), s.live = true → s.st.halt = false →
    ∃ h, runHost (chkv str) s = .next h ∧
      (ValidIdentifier str → h.stopped = false ∧ h.log = [(.rb, 1), (.rd, digitValue (str.getD 12 0#8))]) ∧
      (¬ ValidIdentifier str → h.stopped = true ∧ h.log = [(.rb, 0)])

/-- 70_reset_and_hazards.md R171 and R167: what the host's conditions on `RB` (with `BV = 1`), `ST.ERR` and `ST.HALT` say of the state,
at every point of a run. -/
def Obligations.HostConditionsSayTheState : Prop :=
  ∀ h : HostRun,
    (h.engine.st.bv = true → (h.test .valid = true ↔ h.engine.rb = true)) ∧
    (h.test .running = true ↔ h.engine.st.halt = false) ∧ (h.test .halted = true ↔ h.engine.st.halt = true) ∧
    (h.test .fatal = true ↔ h.engine.st.err = some .contractViolation ∨ h.engine.st.err = some .illegalCommand) ∧
    (h.test .formatError = true ↔ h.engine.st.err = some .formatError)

/-- 70_reset_and_hazards.md R167: checking `ST.HALT`, or `ST.ERR >= 2`, after a command tells a host whether the command was one that
raises a fatal exception (60_exceptions.md R150), and a host that goes on while the engine runs goes on after every other command. The
form of host programs is the model's choice (notes/assumptions/19.md). -/
def Obligations.HostCheckTellsFatalCommands : Prop :=
  ∀ (w : CommandWord) (s : State), s.live = true → s.st.halt = false →
    (∃ h, runHost [.present w, .compare .running] s = .next h ∧ (h.stopped = true ↔ FatalCommand (decode w))) ∧
    (∃ h, runHost [.present w, .compare .fatal] s = .next h ∧ (h.stopped = false ↔ FatalCommand (decode w)))

/-- 70_reset_and_hazards.md R167, R160 and 00_scope.md R3: a host that resets the engine exactly when a command has halted it gets from
its next command what it would have got without the first. The form of host programs is the model's choice
(notes/assumptions/19.md). -/
def Obligations.HostRecoversByReset : Prop :=
  ∀ (w v : CommandWord) (s : State), s.live = true → s.st.halt = false →
    ∃ h u, runHost [.present w, .onlyIf .halted 1, .reset, .present v] s = .next h ∧ h.stopped = false ∧
      exec (decode v) s = .next u ∧ SameResults h.engine u

/-- 60_exceptions.md R153: engines share nothing a step changes: a step of engine `k` that is no reset leaves every other engine as it
is, its `HALT` too, and makes of engine `k` what it would be alone. The form of the platform is the model's choice
(notes/assumptions/16.md). -/
def Obligations.EnginesAreIndependent : Prop :=
  ∀ (p q : Platform) (k : Nat) (s : State), p.engines[k]? = some s → (∀ rest, s.inputs ≠ .reset :: rest) →
    p.step k = .next q →
    (∀ j, j ≠ k → q.engines[j]? = p.engines[j]?) ∧ ∃ t, step s = .next t ∧ q.engines[k]? = some t

/-- 70_reset_and_hazards.md R160: asserted reset reaches every engine. That the input may stand in any one engine's list is the model's
choice (notes/assumptions/16.md). -/
def Obligations.ResetReachesEveryEngine : Prop :=
  ∀ (p q : Platform) (k : Nat) (s : State) (rest : List HostInput), p.engines[k]? = some s → s.inputs = .reset :: rest →
    p.step k = .next q →
    q.engines.length = p.engines.length ∧ ∀ t ∈ q.engines, readST t = 0x00#8 ∧ t.live = true

/-- 20_memory.md R51 (c): every interleaving gives each engine the same results: after any schedule without resets, engine `k` is where its
own steps alone would have brought it. The form of the platform and of its schedules is the model's choice
(notes/assumptions/16.md and 20.md). -/
def Obligations.InterleavingChangesNoResult : Prop :=
  ∀ (schedule : List Nat) (p q : Platform), (∀ s ∈ p.engines, HostInput.reset ∉ s.inputs) →
    Platform.run schedule p = .next q →
    ∀ (k : Nat) (s : State), p.engines[k]? = some s →
      ∃ t, Host.Core.run Sys2Proof.core (schedule.count k) s = .next t ∧ q.engines[k]? = some t
end

