-- ==== Sys2Proof/Laws/Operands.lean ====
section
/-! SUPPORT. What the operand assembly does under the configuration E13 takes. -/

namespace Sys2Proof.Machine

@[simp] theorem e13_w : e13.w = wStd := rfl
@[simp] theorem e13_zeroCode : e13.zeroCode = 0x30#8 := rfl
@[simp] theorem e13_lodd : e13.lodd = romLODD := rfl
@[simp] theorem e13_leven : e13.leven = romLEVEN := rfl
@[simp] theorem e13_reven : e13.reven = romREVEN := rfl
@[simp] theorem e13_par : e13.par = romPAR := rfl
@[simp] theorem e13_startGuard : e13.startGuard = 0b101#3 := rfl
@[simp] theorem e13_centerGuard : e13.centerGuard = 0b01010#5 := rfl
@[simp] theorem e13_endGuard : e13.endGuard = 0b101#3 := rfl

/-- `isdigit` of 30_encoding.md R65 as a range of codes. -/
theorem isdigit_iff (c : Config) (x : CharCell) :
    isdigit c x = true ↔ c.zeroCode.toNat ≤ x.toNat ∧ x.toNat ≤ c.zeroCode.toNat + 9 := by
  simp [isdigit]

/-- The digit of a digit character (30_encoding.md R65). -/
theorem digit_toNat (c : Config) (x : CharCell) (h : isdigit c x = true) :
    (digit c x).toNat = x.toNat - c.zeroCode.toNat := by
  obtain ⟨h0, h9⟩ := (isdigit_iff c x).mp h
  have hx := x.isLt
  have hz := c.zeroCode.isLt
  simp only [digit, BitVec.toNat_setWidth, BitVec.toNat_sub]
  omega

theorem digit_le_nine (c : Config) (x : CharCell) (h : isdigit c x = true) : (digit c x).toNat ≤ 9 := by
  have := (isdigit_iff c x).mp h
  rw [digit_toNat c x h]
  omega

@[simp] theorem digits_getElem (c : Config) (ch : Cells) (i : Nat) (h : i < 13) :
    (digits c ch)[i] = digit c ch[i] := by
  simp [digits]

@[simp] theorem prefixDigits_getElem (c : Config) (ch : Cells) (i : Nat) (h : i < 12) :
    (prefixDigits c ch)[i] = digit c ch[i] := by
  simp [prefixDigits]

/-- `wellformed(n)` of 30_encoding.md R66, cell by cell. -/
theorem wellformed_iff (c : Config) (n : Nat) (len : Len) (ch : Cells) :
    wellformed c n len ch = true ↔ len.toNat = n ∧ ∀ i : Fin 13, i.val < n → isdigit c ch[i] = true := by
  simp only [wellformed, Bool.and_eq_true, decide_eq_true_eq, List.all_eq_true, and_congr_right_iff]
  intro _
  constructor
  · intro h i hi
    apply h
    rw [List.mem_take_iff_getElem]
    exact ⟨i.val, by simp; omega, by simp⟩
  · intro h x hx
    obtain ⟨j, hj, rfl⟩ := List.mem_take_iff_getElem.mp hx
    have hj' : j < n ∧ j < 13 := by simpa using hj
    simpa using h ⟨j, hj'.2⟩ hj'.1

end Sys2Proof.Machine
end

