-- ==== Sys2Proof/Laws/Checksum.lean ====
section
/-! SUPPORT. The arithmetic of the checksum engine (40_checksum.md R83, R84). -/

namespace Sys2Proof.Machine

/-- `RD` holds the check digit exactly: the narrowing to 4 bits loses nothing (40_checksum.md R84). -/
theorem checkdigit_toNat (c : Config) (d : Vector Digit 12) :
    (checkdigit c d).toNat = (10 - wsum c d % 10) % 10 := by
  simp only [checkdigit, BitVec.toNat_ofNat]
  omega

/-- Any check digit is in 0..=9 (40_checksum.md R89). -/
theorem checkdigit_le_nine (c : Config) (d : Vector Digit 12) : (checkdigit c d).toNat ≤ 9 := by
  rw [checkdigit_toNat]
  omega

/-- Verification as a congruence (40_checksum.md R85). -/
theorem verify13_iff (c : Config) (d : Vector Digit 13) (h : d[12].toNat ≤ 9) :
    verify13 c d = true ↔ (wsum c d.pop + d[12].toNat) % 10 = 0 := by
  simp only [verify13, beq_iff_eq, ← BitVec.toNat_inj, checkdigit_toNat]
  omega

end Sys2Proof.Machine
end

