-- ==== Sys2Proof/Laws/Decode.lean ====
section
/-! SUPPORT. The fields of a format `C` word (30_encoding.md R61). -/

namespace Sys2Proof

/-- A format `C` word as a number, field by field. -/
theorem formatC_toNat (op : BitVec 3) (len : Len) (ch : Cells) :
    (formatC op len ch).toNat =
      op.toNat * 2 ^ 109 + len.toNat * 2 ^ 104 + ch[0].toNat * 2 ^ 96 + ch[1].toNat * 2 ^ 88 + ch[2].toNat * 2 ^ 80
        + ch[3].toNat * 2 ^ 72 + ch[4].toNat * 2 ^ 64 + ch[5].toNat * 2 ^ 56 + ch[6].toNat * 2 ^ 48
        + ch[7].toNat * 2 ^ 40 + ch[8].toNat * 2 ^ 32 + ch[9].toNat * 2 ^ 24 + ch[10].toNat * 2 ^ 16
        + ch[11].toNat * 2 ^ 8 + ch[12].toNat := by
  simp only [formatC, BitVec.toNat_append]
  simp only [← Nat.shiftLeft_add_eq_or_of_lt (BitVec.isLt _)]
  simp only [Nat.shiftLeft_eq]
  omega

@[simp] theorem opField_formatC (op : BitVec 3) (len : Len) (ch : Cells) : opField (formatC op len ch) = op := by
  apply BitVec.eq_of_toNat_eq
  simp only [opField, BitVec.extractLsb'_toNat, formatC_toNat, Nat.shiftRight_eq_div_pow]
  omega

@[simp] theorem lenField_formatC (op : BitVec 3) (len : Len) (ch : Cells) : lenField (formatC op len ch) = len := by
  apply BitVec.eq_of_toNat_eq
  simp only [lenField, BitVec.extractLsb'_toNat, formatC_toNat, Nat.shiftRight_eq_div_pow]
  omega

theorem cellField_formatC (op : BitVec 3) (len : Len) (ch : Cells) (i : Fin 13) :
    cellField (formatC op len ch) i = ch[i] := by
  apply BitVec.eq_of_toNat_eq
  simp only [cellField, BitVec.extractLsb'_toNat, formatC_toNat, Nat.shiftRight_eq_div_pow]
  fin_cases i <;> simp <;> omega

@[simp] theorem cellsField_formatC (op : BitVec 3) (len : Len) (ch : Cells) : cellsField (formatC op len ch) = ch := by
  ext j hj
  simp [cellsField, cellField_formatC]

end Sys2Proof
end

