-- ==== Sys2Proof/Laws/Framer.lean ====
section
/-! SUPPORT. The lookups and the framer on digits that are in range (41_lut_parity.md R108, 42_framer.md R124). -/

namespace Sys2Proof.Machine

/-- All a ROM read can do (20_memory.md R42, R43). -/
theorem memRead_inRange {word : Type} (rom : Vector word 10) (a : Digit) (h : a.toNat < 10) :
    memRead rom a = .ok rom[a.toNat] := by
  simp [memRead, h]

theorem memRead_outOfRange {word : Type} (rom : Vector word 10) (a : Digit) (h : 10 ≤ a.toNat) :
    memRead rom a = .error .contractViolation := by
  simp [memRead, Nat.not_lt.mpr h]

/-- The ROM that a selector chooses (41_lut_parity.md R106). -/
def leftRom (c : Config) (p : Parity) : Vector ModuleCode 10 :=
  match p with
  | .odd => c.lodd
  | .even => c.leven

theorem leftcode_eq (c : Config) (p : Parity) (d : Digit) : leftcode c p d = memRead (leftRom c p) d := by
  cases p <;> rfl

/-- The six left codes of digits in range. -/
theorem leftCodes_inRange (c : Config) (sel : SelectorWord) (d : Vector Digit 13) (h : ∀ i (hi : i < 13), d[i].toNat < 10) :
    leftCodes c sel d = .ok #v[
      (leftRom c (selector sel 0))[d[1].toNat]'(h 1 (by decide)), (leftRom c (selector sel 1))[d[2].toNat]'(h 2 (by decide)),
      (leftRom c (selector sel 2))[d[3].toNat]'(h 3 (by decide)), (leftRom c (selector sel 3))[d[4].toNat]'(h 4 (by decide)),
      (leftRom c (selector sel 4))[d[5].toNat]'(h 5 (by decide)), (leftRom c (selector sel 5))[d[6].toNat]'(h 6 (by decide))] := by
  simp only [leftCodes, leftcode_eq, memRead_inRange _ _ (h 1 (by decide)), memRead_inRange _ _ (h 2 (by decide)), memRead_inRange _ _ (h 3 (by decide)),
    memRead_inRange _ _ (h 4 (by decide)), memRead_inRange _ _ (h 5 (by decide)), memRead_inRange _ _ (h 6 (by decide))]
  rfl

/-- The six right codes of digits in range. -/
theorem rightCodes_inRange (c : Config) (d : Vector Digit 13) (h : ∀ i (hi : i < 13), d[i].toNat < 10) :
    rightCodes c d = .ok #v[c.reven[d[7].toNat]'(h 7 (by decide)), c.reven[d[8].toNat]'(h 8 (by decide)), c.reven[d[9].toNat]'(h 9 (by decide)),
      c.reven[d[10].toNat]'(h 10 (by decide)), c.reven[d[11].toNat]'(h 11 (by decide)), c.reven[d[12].toNat]'(h 12 (by decide))] := by
  simp only [rightCodes, rightcode, memRead_inRange _ _ (h 7 (by decide)), memRead_inRange _ _ (h 8 (by decide)), memRead_inRange _ _ (h 9 (by decide)),
    memRead_inRange _ _ (h 10 (by decide)), memRead_inRange _ _ (h 11 (by decide)), memRead_inRange _ _ (h 12 (by decide))]
  rfl

/-- Digits in range always have a symbol (42_framer.md R124); the lookup's exception does not come. -/
theorem encode13_inRange (c : Config) (d : Vector Digit 13) (h : ∀ i (hi : i < 13), d[i].toNat < 10) :
    ∃ lc rc, leftCodes c (c.par[d[0].toNat]'(h 0 (by decide))) d = .ok lc ∧ rightCodes c d = .ok rc ∧
      encode13 c d = .ok (frame c lc rc) := by
  refine ⟨_, _, leftCodes_inRange c _ d h, rightCodes_inRange c d h, ?_⟩
  simp only [encode13, parsel, memRead_inRange _ _ (h 0 (by decide)), rightCodes_inRange c d h]
  simp only [bind, Except.bind, leftCodes_inRange c _ d h]
  rfl

/-- Left code `k`, whichever `k` (42_framer.md R124). -/
theorem leftCodes_getElem (c : Config) (sel : SelectorWord) (d : Vector Digit 13) (h : ∀ i (hi : i < 13), d[i].toNat < 10)
    {lc : Vector ModuleCode 6} (hl : leftCodes c sel d = .ok lc) (k : Nat) (hk : k < 6) :
    lc[k] = (leftRom c (selector sel k))[d[k + 1].toNat]'(h (k + 1) (by omega)) := by
  rw [leftCodes_inRange c sel d h] at hl
  cases hl
  match k, hk with
  | 0, _ | 1, _ | 2, _ | 3, _ | 4, _ | 5, _ => rfl

/-- Right code `k`, whichever `k` (42_framer.md R124). -/
theorem rightCodes_getElem (c : Config) (d : Vector Digit 13) (h : ∀ i (hi : i < 13), d[i].toNat < 10)
    {rc : Vector ModuleCode 6} (hr : rightCodes c d = .ok rc) (k : Nat) (hk : k < 6) :
    rc[k] = c.reven[d[k + 7].toNat]'(h (k + 7) (by omega)) := by
  rw [rightCodes_inRange c d h] at hr
  cases hr
  match k, hk with
  | 0, _ | 1, _ | 2, _ | 3, _ | 4, _ | 5, _ => rfl

/-- A framed symbol as a number, part by part (42_framer.md R122). -/
theorem frame_toNat (c : Config) (lc rc : Vector ModuleCode 6) :
    (frame c lc rc).toNat =
      c.startGuard.toNat * 2 ^ 92 + lc[0].toNat * 2 ^ 85 + lc[1].toNat * 2 ^ 78 + lc[2].toNat * 2 ^ 71
        + lc[3].toNat * 2 ^ 64 + lc[4].toNat * 2 ^ 57 + lc[5].toNat * 2 ^ 50 + c.centerGuard.toNat * 2 ^ 45
        + rc[0].toNat * 2 ^ 38 + rc[1].toNat * 2 ^ 31 + rc[2].toNat * 2 ^ 24 + rc[3].toNat * 2 ^ 17
        + rc[4].toNat * 2 ^ 10 + rc[5].toNat * 2 ^ 3 + c.endGuard.toNat := by
  simp only [frame, BitVec.toNat_append]
  simp only [← Nat.shiftLeft_add_eq_or_of_lt (BitVec.isLt _)]
  simp only [Nat.shiftLeft_eq]
  omega

/-- Where `Lc[k]` stands in the symbol (42_framer.md R123). -/
theorem frame_leftCode (c : Config) (lc rc : Vector ModuleCode 6) (k : Nat) (hk : k < 6) :
    (frame c lc rc).extractLsb' (85 - 7 * k) 7 = lc[k] := by
  apply BitVec.eq_of_toNat_eq
  simp only [BitVec.extractLsb'_toNat, frame_toNat, Nat.shiftRight_eq_div_pow]
  interval_cases k <;> simp <;> omega

/-- Where `Rc[k]` stands in the symbol (42_framer.md R123). -/
theorem frame_rightCode (c : Config) (lc rc : Vector ModuleCode 6) (k : Nat) (hk : k < 6) :
    (frame c lc rc).extractLsb' (38 - 7 * k) 7 = rc[k] := by
  apply BitVec.eq_of_toNat_eq
  simp only [BitVec.extractLsb'_toNat, frame_toNat, Nat.shiftRight_eq_div_pow]
  interval_cases k <;> simp <;> omega

/-- Where the guards stand in the symbol (42_framer.md R123). -/
theorem frame_guards (c : Config) (lc rc : Vector ModuleCode 6) :
    (frame c lc rc).extractLsb' 92 3 = c.startGuard ∧ (frame c lc rc).extractLsb' 45 5 = c.centerGuard ∧
      (frame c lc rc).extractLsb' 0 3 = c.endGuard := by
  refine ⟨?_, ?_, ?_⟩ <;> apply BitVec.eq_of_toNat_eq <;>
    simp only [BitVec.extractLsb'_toNat, frame_toNat, Nat.shiftRight_eq_div_pow] <;> omega

/-- Module `j` of a part of a symbol is a module of the symbol (00_scope.md R11). -/
theorem moduleAt_part (y : Symbol) (m n j : Nat) (hn : n + m ≤ 95) (hj : j < n) :
    moduleAt (y.extractLsb' m n) j = moduleAt y (95 - m - n + j) := by
  have h1 : 95 - m - n + j < 95 := by omega
  have h2 : n - 1 - j < n := by omega
  have h3 : m + (n - 1 - j) = 95 - 1 - (95 - m - n + j) := by omega
  simp only [moduleAt, BitVec.getMsbD, BitVec.getLsbD_extractLsb']
  simp [hj, h1, h2, h3]

end Sys2Proof.Machine
end

