-- ==== Sys2Proof/Laws/State.lean ====
section
/-! SUPPORT. One lemma per field per update of State and of its status register, so that no later proof unfolds a record
update. -/

namespace Sys2Proof.Machine

@[simp] theorem Status.begin_bv (st : Status) : (st.begin).bv = false := rfl
@[simp] theorem Status.begin_dv (st : Status) : (st.begin).dv = false := rfl
@[simp] theorem Status.begin_sv (st : Status) : (st.begin).sv = false := rfl
@[simp] theorem Status.begin_err (st : Status) : (st.begin).err = none := rfl
@[simp] theorem Status.begin_halt (st : Status) : (st.begin).halt = st.halt := rfl

@[simp] theorem Status.raise_bv (e : Exc) (st : Status) : (st.raise e).bv = st.bv := rfl
@[simp] theorem Status.raise_dv (e : Exc) (st : Status) : (st.raise e).dv = st.dv := rfl
@[simp] theorem Status.raise_sv (e : Exc) (st : Status) : (st.raise e).sv = st.sv := rfl
@[simp] theorem Status.raise_err (e : Exc) (st : Status) : (st.raise e).err = some e := rfl
@[simp] theorem Status.raise_halt (e : Exc) (st : Status) : (st.raise e).halt = (st.halt || e.fatal) := rfl

@[simp] theorem Status.reset_bv : Status.reset.bv = false := rfl
@[simp] theorem Status.reset_dv : Status.reset.dv = false := rfl
@[simp] theorem Status.reset_sv : Status.reset.sv = false := rfl
@[simp] theorem Status.reset_err : Status.reset.err = none := rfl
@[simp] theorem Status.reset_halt : Status.reset.halt = false := rfl

@[simp] theorem beginCommand_st (s : State) : (beginCommand s).st = s.st.begin := rfl
@[simp] theorem beginCommand_rb (s : State) : (beginCommand s).rb = s.rb := rfl
@[simp] theorem beginCommand_rd (s : State) : (beginCommand s).rd = s.rd := rfl
@[simp] theorem beginCommand_sym (s : State) : (beginCommand s).sym = s.sym := rfl
@[simp] theorem beginCommand_live (s : State) : (beginCommand s).live = s.live := rfl
@[simp] theorem beginCommand_draws (s : State) : (beginCommand s).draws = s.draws + 1 := rfl
@[simp] theorem beginCommand_inputs (s : State) : (beginCommand s).inputs = s.inputs := rfl

@[simp] theorem writeRB_st (b : Bool) (s : State) : (writeRB b s).st = { s.st with bv := true } := rfl
@[simp] theorem writeRB_rb (b : Bool) (s : State) : (writeRB b s).rb = b := rfl
@[simp] theorem writeRB_rd (b : Bool) (s : State) : (writeRB b s).rd = s.rd := rfl
@[simp] theorem writeRB_sym (b : Bool) (s : State) : (writeRB b s).sym = s.sym := rfl
@[simp] theorem writeRB_live (b : Bool) (s : State) : (writeRB b s).live = s.live := rfl
@[simp] theorem writeRB_draws (b : Bool) (s : State) : (writeRB b s).draws = s.draws := rfl
@[simp] theorem writeRB_inputs (b : Bool) (s : State) : (writeRB b s).inputs = s.inputs := rfl

@[simp] theorem writeRD_st (d : Digit) (s : State) : (writeRD d s).st = { s.st with dv := true } := rfl
@[simp] theorem writeRD_rb (d : Digit) (s : State) : (writeRD d s).rb = s.rb := rfl
@[simp] theorem writeRD_rd (d : Digit) (s : State) : (writeRD d s).rd = d := rfl
@[simp] theorem writeRD_sym (d : Digit) (s : State) : (writeRD d s).sym = s.sym := rfl
@[simp] theorem writeRD_live (d : Digit) (s : State) : (writeRD d s).live = s.live := rfl
@[simp] theorem writeRD_draws (d : Digit) (s : State) : (writeRD d s).draws = s.draws := rfl
@[simp] theorem writeRD_inputs (d : Digit) (s : State) : (writeRD d s).inputs = s.inputs := rfl

@[simp] theorem writeSYM_st (y : Symbol) (s : State) : (writeSYM y s).st = { s.st with sv := true } := rfl
@[simp] theorem writeSYM_rb (y : Symbol) (s : State) : (writeSYM y s).rb = s.rb := rfl
@[simp] theorem writeSYM_rd (y : Symbol) (s : State) : (writeSYM y s).rd = s.rd := rfl
@[simp] theorem writeSYM_sym (y : Symbol) (s : State) : (writeSYM y s).sym = y := rfl
@[simp] theorem writeSYM_live (y : Symbol) (s : State) : (writeSYM y s).live = s.live := rfl
@[simp] theorem writeSYM_draws (y : Symbol) (s : State) : (writeSYM y s).draws = s.draws := rfl
@[simp] theorem writeSYM_inputs (y : Symbol) (s : State) : (writeSYM y s).inputs = s.inputs := rfl

@[simp] theorem raise_st (e : Exc) (s : State) : (raise e s).st = s.st.raise e := rfl
@[simp] theorem raise_rb (e : Exc) (s : State) : (raise e s).rb = s.rb := rfl
@[simp] theorem raise_rd (e : Exc) (s : State) : (raise e s).rd = s.rd := rfl
@[simp] theorem raise_sym (e : Exc) (s : State) : (raise e s).sym = s.sym := rfl
@[simp] theorem raise_live (e : Exc) (s : State) : (raise e s).live = s.live := rfl
@[simp] theorem raise_draws (e : Exc) (s : State) : (raise e s).draws = s.draws := rfl
@[simp] theorem raise_inputs (e : Exc) (s : State) : (raise e s).inputs = s.inputs := rfl

@[simp] theorem assertReset_st (s : State) : (assertReset s).st = Status.reset := rfl
@[simp] theorem assertReset_rb (s : State) : (assertReset s).rb = false := rfl
@[simp] theorem assertReset_rd (s : State) : (assertReset s).rd = 0#4 := rfl
@[simp] theorem assertReset_sym (s : State) : (assertReset s).sym = 0#95 := rfl
@[simp] theorem assertReset_live (s : State) : (assertReset s).live = true := rfl
@[simp] theorem assertReset_draws (s : State) : (assertReset s).draws = s.draws + 1 := rfl
@[simp] theorem assertReset_inputs (s : State) : (assertReset s).inputs = s.inputs := rfl

@[simp] theorem presentNext_st (w : CommandWord) (s : State) : (presentNext w s).st = s.st := rfl
@[simp] theorem presentNext_rb (w : CommandWord) (s : State) : (presentNext w s).rb = s.rb := rfl
@[simp] theorem presentNext_rd (w : CommandWord) (s : State) : (presentNext w s).rd = s.rd := rfl
@[simp] theorem presentNext_sym (w : CommandWord) (s : State) : (presentNext w s).sym = s.sym := rfl
@[simp] theorem presentNext_live (w : CommandWord) (s : State) : (presentNext w s).live = true := rfl
@[simp] theorem presentNext_draws (w : CommandWord) (s : State) : (presentNext w s).draws = s.draws := rfl
@[simp] theorem presentNext_inputs (w : CommandWord) (s : State) : (presentNext w s).inputs = .present w :: s.inputs := rfl

@[simp] theorem State.reset_st : State.reset.st = Status.reset := rfl
@[simp] theorem State.reset_rb : State.reset.rb = false := rfl
@[simp] theorem State.reset_rd : State.reset.rd = 0#4 := rfl
@[simp] theorem State.reset_sym : State.reset.sym = 0#95 := rfl
@[simp] theorem State.reset_live : State.reset.live = true := rfl
@[simp] theorem State.reset_draws : State.reset.draws = 0 := rfl
@[simp] theorem State.reset_inputs : State.reset.inputs = [] := rfl

end Sys2Proof.Machine
end

