-- ==== Sys2Proof/Laws/Ops.lean ====
section
/-! SUPPORT. One lemma per shared operation over one engine: everything it can do. -/

namespace Sys2Proof.Machine

/-- All a presented command can do: nothing on a halted engine, else its effect after `begin_command`. -/
theorem takeCommand_next_iff {effect : State → State} {s t : State} :
    takeCommand effect s = .next t ↔
      (s.st.halt = true ∧ t = s) ∨ (s.st.halt = false ∧ t = effect (beginCommand s)) := by
  unfold takeCommand
  cases s.st.halt <;> simp [eq_comm]

theorem takeCommand_halted {s : State} (effect : State → State) (h : s.st.halt = true) :
    takeCommand effect s = .next s := by
  simp [takeCommand, h]

theorem takeCommand_running {s : State} (effect : State → State) (h : s.st.halt = false) :
    takeCommand effect s = .next (effect (beginCommand s)) := by
  simp [takeCommand, h]

/-- The effect of each command on the state that `begin_command` leaves. -/
def effectOf : Instr → State → State
  | .chkd len ch => chkdEffect e13 len ch
  | .verify len ch => verifyEffect e13 len ch
  | .verifyq len ch => verifyqEffect e13 len ch
  | .encode len ch => encodeEffect e13 len ch
  | .reserved _ _ _ => raise .illegalCommand

/-- Every command is presented in the same way; only its effect is its own. -/
theorem exec_eq_takeCommand (i : Instr) (s : State) : exec i s = takeCommand (effectOf i) s := by
  cases i <;> rfl

/-- All a command can do. -/
theorem exec_next_iff {i : Instr} {s t : State} :
    exec i s = .next t ↔
      (s.st.halt = true ∧ t = s) ∨ (s.st.halt = false ∧ t = effectOf i (beginCommand s)) := by
  rw [exec_eq_takeCommand, takeCommand_next_iff]

/-- No command stops the machine. -/
theorem exec_answers_next (i : Instr) (s : State) : ∃ t, exec i s = .next t := by
  cases h : s.st.halt
  · exact ⟨_, exec_next_iff.mpr (.inr ⟨h, rfl⟩)⟩
  · exact ⟨_, exec_next_iff.mpr (.inl ⟨h, rfl⟩)⟩

theorem takeInput_nil {s : State} (h : s.inputs = []) : takeInput s = none := by
  simp [takeInput, h]

theorem takeInput_cons {s : State} {x : HostInput} {rest : List HostInput} (h : s.inputs = x :: rest) :
    takeInput s = some (x, { s with inputs := rest }) := by
  simp [takeInput, h]

/-- All a step can do when it answers a next state: wait, reset, or take a presented command. -/
theorem step_next_cases {s t : State} (h : step s = .next t) :
    (s.inputs = [] ∧ t = s) ∨
    (∃ rest, s.inputs = .reset :: rest ∧ t = assertReset { s with inputs := rest }) ∨
    (∃ w rest, s.inputs = .present w :: rest ∧ s.live = true ∧ exec (decode w) { s with inputs := rest } = .next t) := by
  unfold step at h
  match hin : s.inputs with
  | [] =>
    rw [takeInput_nil hin] at h
    exact .inl ⟨rfl, by simpa using h.symm⟩
  | .reset :: rest =>
    rw [takeInput_cons hin] at h
    exact .inr (.inl ⟨rest, rfl, by simpa using h.symm⟩)
  | .present w :: rest =>
    rw [takeInput_cons hin] at h
    refine .inr (.inr ⟨w, rest, rfl, ?_⟩)
    cases hl : s.live
    · simp [hl] at h
    · exact ⟨rfl, by simpa [hl] using h⟩

end Sys2Proof.Machine
end

