-- ==== Sys2Proof/Laws/Host.lean ====
section
/-! SUPPORT. What the host reads of `ST`, what one step of a host run can do, and what the engine does with what it is
handed. -/

namespace Sys2Proof.Machine

@[simp] theorem readBV_eq (s : State) : readBV s = s.st.bv := by
  simp only [readBV, readST]; obtain ⟨bv, dv, sv, err, halt⟩ := s.st
  cases bv <;> cases dv <;> cases sv <;> cases halt <;> rcases err with _ | _ | _ | _ <;> rfl

@[simp] theorem readDV_eq (s : State) : readDV s = s.st.dv := by
  simp only [readDV, readST]; obtain ⟨bv, dv, sv, err, halt⟩ := s.st
  cases bv <;> cases dv <;> cases sv <;> cases halt <;> rcases err with _ | _ | _ | _ <;> rfl

@[simp] theorem readSV_eq (s : State) : readSV s = s.st.sv := by
  simp only [readSV, readST]; obtain ⟨bv, dv, sv, err, halt⟩ := s.st
  cases bv <;> cases dv <;> cases sv <;> cases halt <;> rcases err with _ | _ | _ | _ <;> rfl

@[simp] theorem readHALT_eq (s : State) : readHALT s = s.st.halt := by
  simp only [readHALT, readST]; obtain ⟨bv, dv, sv, err, halt⟩ := s.st
  cases bv <;> cases dv <;> cases sv <;> cases halt <;> rcases err with _ | _ | _ | _ <;> rfl

@[simp] theorem readERR_eq (s : State) : readERR s = s.st.errCode := by
  simp only [readERR, readST]; obtain ⟨bv, dv, sv, err, halt⟩ := s.st
  cases bv <;> cases dv <;> cases sv <;> cases halt <;> rcases err with _ | _ | _ | _ <;> rfl

@[simp] theorem HostRel.holds_eq_iff (x v : Nat) : HostRel.eq.holds x v = true ↔ x = v := decide_eq_true_iff
@[simp] theorem HostRel.holds_ne_iff (x v : Nat) : HostRel.ne.holds x v = true ↔ x ≠ v := decide_eq_true_iff
@[simp] theorem HostRel.holds_ge_iff (x v : Nat) : HostRel.ge.holds x v = true ↔ v ≤ x := decide_eq_true_iff
@[simp] theorem HostRel.holds_lt_iff (x v : Nat) : HostRel.lt.holds x v = true ↔ x < v := decide_eq_true_iff

/-- Whether a condition holds is the comparison of what the host reads now. -/
theorem HostRun.test_eq (h : HostRun) (c : HostCond) : h.test c = c.rel.holds (h.look c.reg) c.value := rfl

@[simp] theorem HostRun.noted_engine (h : HostRun) (r : HostReg) : (h.noted r).engine = h.engine := rfl
@[simp] theorem HostRun.noted_log (h : HostRun) (r : HostReg) : (h.noted r).log = h.log ++ [(r, h.look r)] := rfl
@[simp] theorem HostRun.noted_passOver (h : HostRun) (r : HostReg) : (h.noted r).passOver = h.passOver := rfl
@[simp] theorem HostRun.noted_stopped (h : HostRun) (r : HostReg) : (h.noted r).stopped = h.stopped := rfl

/-- A command handed to an engine that has been reset: `exec` of what it decodes to. -/
theorem deliver_present {s : State} (w : CommandWord) (h : s.live = true) :
    deliver (.present w) s = exec (decode w) s := by
  show (if s.live then Sys2Proof.Machine.exec (decode w) s else .refused .beforeReset) = _
  rw [if_pos h]

/-- Reset asserted on any engine. -/
theorem deliver_reset (s : State) : deliver .reset s = .next (assertReset s) := rfl

/-- A host that has stopped does nothing more. -/
theorem HostRun.exec_stopped {h : HostRun} (p : List HostStep) (hs : h.stopped = true) : HostRun.exec p h = .next h := by
  cases p <;> simp [HostRun.exec, hs]

/-- A host step passed over. -/
theorem HostRun.exec_passOver {h : HostRun} (x : HostStep) (rest : List HostStep) (hs : h.stopped = false)
    (hp : 0 < h.passOver) : HostRun.exec (x :: rest) h = HostRun.exec rest { h with passOver := h.passOver - 1 } := by
  simp [HostRun.exec, hs, hp]

/-- A host step taken. -/
theorem HostRun.exec_step {h h' : HostRun} {x : HostStep} (rest : List HostStep) (hs : h.stopped = false)
    (hp : h.passOver = 0) (ha : h.act x = .next h') : HostRun.exec (x :: rest) h = HostRun.exec rest h' := by
  simp [HostRun.exec, hs, hp, ha]

/-- A command presented by a host to an engine that has been reset. -/
theorem HostRun.act_present {h : HostRun} {t : State} {w : CommandWord} (hl : h.engine.live = true)
    (he : Sys2Proof.Machine.exec (decode w) h.engine = .next t) : h.act (.present w) = .next { h with engine := t } := by
  simp [HostRun.act, deliver_present w hl, he, HostRun.afterInput]

end Sys2Proof.Machine
end

