-- ==== Sys2Proof/Laws/PerInstr.lean ====
section
/-! SUPPORT. Families of statements about each instruction as syntax, one lemma per constructor. -/

namespace Sys2Proof.Laws.RowMatch

/-- The mask of the instruction's row of spec/opcode_table.json. -/
def mask : Instr → CommandWord
  | .chkd _ _ => 0xE000000000000000000000000000#112
  | .verify _ _ => 0xE000000000000000000000000000#112
  | .verifyq _ _ => 0xE000000000000000000000000000#112
  | .encode _ _ => 0xE000000000000000000000000000#112
  | .reserved _ _ _ => 0x8000000000000000000000000000#112

/-- The match of the instruction's row of spec/opcode_table.json. -/
def pattern : Instr → CommandWord
  | .chkd _ _ => 0x0000000000000000000000000000#112
  | .verify _ _ => 0x2000000000000000000000000000#112
  | .verifyq _ _ => 0x4000000000000000000000000000#112
  | .encode _ _ => 0x6000000000000000000000000000#112
  | .reserved _ _ _ => 0x8000000000000000000000000000#112

/-- The encoding of a well-formed instruction matches its row of the table. -/
def Statement (i : Instr) : Prop := i.wf = true → encode i &&& mask i = pattern i

/-- A mask of the top three bits sees the `OP` field alone. -/
theorem and_topBits (w : CommandWord) (k : BitVec 3) :
    w &&& (k.setWidth 112 <<< 109) = (opField w &&& k).setWidth 112 <<< 109 := by
  apply BitVec.eq_of_getLsbD_eq
  intro j hj
  by_cases h : j < 109
  · simp [h]
  · have hj' : 109 + (j - 109) = j := by omega
    have h3 : j - 109 < 3 := by omega
    simp [opField, h, h3, hj', hj]

theorem chkd (len : Len) (ch : Cells) : Statement (.chkd len ch) := fun _ =>
  (and_topBits (formatC 0#3 len ch) 7#3).trans (by rw [opField_formatC]; rfl)

theorem verify (len : Len) (ch : Cells) : Statement (.verify len ch) := fun _ =>
  (and_topBits (formatC 1#3 len ch) 7#3).trans (by rw [opField_formatC]; rfl)

theorem verifyq (len : Len) (ch : Cells) : Statement (.verifyq len ch) := fun _ =>
  (and_topBits (formatC 2#3 len ch) 7#3).trans (by rw [opField_formatC]; rfl)

theorem encode (len : Len) (ch : Cells) : Statement (.encode len ch) := fun _ =>
  (and_topBits (formatC 3#3 len ch) 7#3).trans (by rw [opField_formatC]; rfl)

theorem reserved (op : BitVec 3) (len : Len) (ch : Cells) : Statement (.reserved op len ch) := fun h => by
  refine (and_topBits (formatC op len ch) 4#3).trans ?_
  rw [opField_formatC]
  simp only [Instr.wf, decide_eq_true_eq] at h
  simp only [pattern]
  revert op
  decide

end Sys2Proof.Laws.RowMatch
end

