-- ==== Sys2Proof/Tests/Slice0.lean ====
section
/-! SUPPORT. Tests of one step, of decoding and of the checks, with expected results from the spec's own words and vectors
(95_test_vectors.md unless another file is named), and for each statement with hypotheses a witness that meets them. -/

namespace Sys2Proof.Tests

open Sys2Proof.Machine

/-- The next state, if there is one. -/
def after (o : Host.Outcome State Fault Refusal) : Option State :=
  match o with
  | .next t => some t
  | .fault _ => none
  | .refused _ => none

/-- The state after one step in which the host presents `w` to an engine just reset. -/
def afterWord (w : Nat) : Option State := after (step (State.reset.withFetchWord 112 w))

/-- An engine halted by an IllegalCommand. -/
def haltedState : State :=
  { State.reset with st := { bv := false, dv := false, sv := false, err := some .illegalCommand, halt := true } }

/-- The cells of "4006381333931" (30_encoding.md R70). -/
def cellsValid : Cells := #v[0x34, 0x30, 0x30, 0x36, 0x33, 0x38, 0x31, 0x33, 0x33, 0x33, 0x39, 0x33, 0x31]

/-- The cells of "400638133393X", a letter at position 12 (table 2.3). -/
def cellsLetter : Cells := #v[0x34, 0x30, 0x30, 0x36, 0x33, 0x38, 0x31, 0x33, 0x33, 0x33, 0x39, 0x33, 0x58]

/-- The string "4006381333931". -/
def strValid : List CharCell := [0x34, 0x30, 0x30, 0x36, 0x33, 0x38, 0x31, 0x33, 0x33, 0x33, 0x39, 0x33, 0x31]

/-- The string "40063813339X" of twelve characters (90_conflicts.md C3). -/
def strLetter : List CharCell := [0x34, 0x30, 0x30, 0x36, 0x33, 0x38, 0x31, 0x33, 0x33, 0x33, 0x39, 0x58]

/-! ### The check of WellFormed refuses an ill-formed term -/

theorem test_wf_refuses_reserved_with_a_defined_op : (Instr.reserved 3#3 13#5 cellsValid).wf = false := by decide
theorem test_wf_accepts_reserved_op_4 : (Instr.reserved 4#3 13#5 cellsValid).wf = true := by decide

/-! ### Decoding: a word of each row, written out from 30_encoding.md R61 and R62 -/

/-- `OP` 000, `LEN` 01100 (R70). -/
theorem test_decode_chkd :
    decode (0b000#3 ++ 0b01100#5 ++ 0x343030363338313333333933#96 ++ 0x00#8)
      = .chkd 12#5 #v[0x34, 0x30, 0x30, 0x36, 0x33, 0x38, 0x31, 0x33, 0x33, 0x33, 0x39, 0x33, 0x00] := by decide

/-- `OP` 001, `LEN` 01101. -/
theorem test_decode_verify :
    decode (0b001#3 ++ 0b01101#5 ++ 0x34303036333831333333393331#104) = .verify 13#5 cellsValid := by decide

/-- `OP` 010, `LEN` 01101 (R70). -/
theorem test_decode_verifyq :
    decode (0b010#3 ++ 0b01101#5 ++ 0x34303036333831333333393331#104) = .verifyq 13#5 cellsValid := by decide

/-- `OP` 011, `LEN` 01101. -/
theorem test_decode_encode :
    decode (0b011#3 ++ 0b01101#5 ++ 0x34303036333831333333393331#104) = .encode 13#5 cellsValid := by decide

/-- `OP` 100 and 111, the first and the last reserved value (R67). -/
theorem test_decode_reserved :
    decode (0b100#3 ++ 0b01101#5 ++ 0x34303036333831333333393331#104) = .reserved 4#3 13#5 cellsValid ∧
    decode (0b111#3 ++ 0#109) = .reserved 7#3 0#5 (Vector.replicate 13 0) := by decide

/-- The words of table 2.4 and R70 the encoder gives. -/
theorem test_encode_words :
    encode (.verifyq 13#5 cellsValid) = 0x4D34303036333831333333393331#112 ∧
    encode (.reserved 4#3 13#5 cellsValid) = 0x8D34303036333831333333393331#112 := by decide

/-- Fourteen bytes are a word, thirteen are rejected by name (30_encoding.md R60). -/
theorem test_decodeBytes :
    decodeBytes [0x4D, 0x34, 0x30, 0x30, 0x36, 0x33, 0x38, 0x31, 0x33, 0x33, 0x33, 0x39, 0x33, 0x31]
      = .ok (.verifyq 13#5 cellsValid) ∧
    decodeBytes (List.replicate 13 0) = .error (.wrongLength 13) := by decide

/-- Table 2.3, the row of 39 characters: `LEN` saturates at 31. -/
theorem test_assemble_saturates :
    assemble .verifyq (strValid ++ strValid ++ strValid) = 0x5F34303036333831333333393331#112 := by decide

/-! ### One step of each command -/

/-- Table 2.1: position 11 alone, which tells the weights apart; `ST = 0x02`, `RD = 7`. -/
theorem test_chkd_last_weight :
    (afterWord 0x0C30303030303030303030303100).map (fun t => (readST t, readRD 0 t)) = some (0x02#8, 7#4) := by decide

/-- Table 2.3: thirteen digits are one too many for `CHKD`; `ST = 0x30`. -/
theorem test_chkd_malformed : (afterWord 0x0D34303036333831333333393331).map readST = some 0x30#8 := by decide

/-- Table 2.2, `4006381333937`: `ST = 0x03`, the computed digit 1, not the one presented, and not valid. -/
theorem test_verify_wrong_digit :
    (afterWord 0x2D34303036333831333333393337).map (fun t => (readST t, readRD 0 t, readRB 0 t))
      = some (0x03#8, 1#4, false) := by decide

/-- Table 2.3, `400638133393:`, the code just above '9': `ST = 0x08`. -/
theorem test_verify_malformed : (afterWord 0x2D3430303633383133333339333A).map readST = some 0x08#8 := by decide

/-- Table 2.2, `1638133393400`, check digit 0 from a sum of 90: `ST = 0x01`, valid. -/
theorem test_verifyq_zero_digit :
    (afterWord 0x4D31363338313333333933343030).map (fun t => (readST t, readRB 0 t)) = some (0x01#8, true) := by decide

/-- Table 2.3, `400638133393/`, the code just below '0': `ST = 0x01`, not valid. -/
theorem test_verifyq_malformed :
    (afterWord 0x4D3430303633383133333339332F).map (fun t => (readST t, readRB 0 t)) = some (0x01#8, false) := by decide

/-- Table 2.5, `9780306406157`. -/
theorem test_encode_symbol :
    (afterWord 0x6D39373830333036343036313537).map (fun t => (readST t, readSYM 0 t))
      = some (0x04#8, 0x576253BD4EBD573950CD3A25#95) := by decide

/-- Table 2.3, the empty string: `ST = 0x08`. -/
theorem test_encode_malformed : (afterWord 0x6000000000000000000000000000).map readST = some 0x08#8 := by decide

/-- Table 2.4, `OP` 5: `ST = 0x38`. -/
theorem test_reserved : (afterWord 0xA000000000000000000000000000).map readST = some 0x38#8 := by decide

/-- Table 2.4, last row: a halted engine does not take a command. -/
theorem test_halted_not_taken :
    after (step (haltedState.withFetchWord 112 0x4D30303030303030303030303030)) = some haltedState := by decide

/-- Program P4 step 3: reset of a halted engine gives `ST = 0x00`. -/
theorem test_reset_clears_halt :
    (after (step { haltedState with inputs := [.reset] })).map readST = some 0x00#8 := by decide

/-- 41_lut_parity.md R108: index 10 is never answered with a word. -/
theorem test_lookup_out_of_domain : parsel e13 10#4 = .error .contractViolation := by rfl

/-- 2.7: the frame alone, with twelve codes `0000000`. -/
theorem test_frame_alone :
    frame e13 (Vector.replicate 6 0) (Vector.replicate 6 0) = 0b101#3 ++ 0#42 ++ 0b01010#5 ++ 0#42 ++ 0b101#3 := by decide

/-- A platform of one engine has no engine 1 (60_exceptions.md R153). -/
theorem test_no_such_engine : Platform.e13Reset.step 1 = .fault .noSuchEngine := by rfl

/-! ### Witnesses: the hypotheses of each statement are met -/

theorem reset_running : State.reset.st.halt = false := rfl

theorem witness_DecodeOfEncodeIsTheInstruction :
    (Instr.reserved 4#3 31#5 cellsValid).wf = true ∧ (Instr.chkd 0#5 cellsLetter).wf = true := by decide

theorem witness_DecodeReadsOpLenAndCells :
    (0x1FFFFFFFFFFFFFFFFFFFFFFFFFFF#112).toNat / 2 ^ 109 = 0 ∧ (0x2000000000000000000000000000#112).toNat / 2 ^ 109 = 1 ∧
    (0x5FFFFFFFFFFFFFFFFFFFFFFFFFFF#112).toNat / 2 ^ 109 = 2 ∧ (0x6000000000000000000000000000#112).toNat / 2 ^ 109 = 3 ∧
    4 ≤ (0x8000000000000000000000000000#112).toNat / 2 ^ 109 ∧ 4 ≤ (0xFFFFFFFFFFFFFFFFFFFFFFFFFFFF#112).toNat / 2 ^ 109 := by
  decide

theorem witness_IgnoredCellsChangeNothing :
    (∀ i : Fin 13, i.val < 12 → cellsValid[i] = cellsLetter[i]) ∧ cellsValid ≠ cellsLetter ∧ (13#5).toNat ≠ 12 ∧
    (12#5).toNat ≠ 13 := by decide

theorem witness_WellformedIffDigitCharacters :
    wellformed e13 13 13#5 cellsValid = true ∧ wellformed e13 12 12#5 cellsLetter = true := by decide

/-- Both clauses of `ChkdWritesCheckDigitOrRaises`; the letter in the ignored cell does not matter. -/
theorem witness_ChkdWritesCheckDigitOrRaises :
    State.reset.st.halt = false ∧ Candidate 12 12#5 cellsLetter ∧ ¬ Candidate 12 13#5 cellsValid := by decide

/-- Both clauses of `VerifyWritesVerdictAndDigitOrRaises`. -/
theorem witness_VerifyWritesVerdictAndDigitOrRaises :
    State.reset.st.halt = false ∧ Candidate 13 13#5 cellsValid ∧ ¬ Candidate 13 13#5 cellsLetter := by decide

theorem witness_VerifyqWritesVerdictAlways : State.reset.st.halt = false := by decide

/-- The digits of "4006381333931". -/
def digitsValid : Vector Digit 13 := #v[4, 0, 0, 6, 3, 8, 1, 3, 3, 3, 9, 3, 1]

theorem witness_EncodeWritesSymbolOrRaises :
    (State.reset.st.halt = false ∧ Candidate 13 13#5 cellsValid ∧
      ∀ i : Fin 13, digitsValid[i].toNat = digitValue cellsValid[i]) ∧
    (State.reset.st.halt = false ∧ ¬ Candidate 13 12#5 cellsValid) := by decide

theorem witness_ReservedOpRaisesIllegalCommand :
    State.reset.st.halt = false ∧ 4 ≤ (0x8000000000000000000000000000#112).toNat / 2 ^ 109 := by decide

/-- The clauses of `ChecksumCommandsFrame`, well-formed and malformed. -/
theorem witness_ChecksumCommandsFrame :
    (∃ t, exec (.chkd 12#5 cellsLetter) State.reset = .next t) ∧ Candidate 12 12#5 cellsLetter ∧
    (∃ t, exec (.chkd 13#5 cellsValid) State.reset = .next t) ∧ ¬ Candidate 12 13#5 cellsValid ∧
    (∃ t, exec (.verify 13#5 cellsLetter) State.reset = .next t) ∧ ¬ Candidate 13 13#5 cellsLetter ∧
    (∃ t, exec (.verifyq 13#5 cellsValid) State.reset = .next t) :=
  ⟨exec_answers_next _ _, by decide, exec_answers_next _ _, by decide, exec_answers_next _ _, by decide,
    exec_answers_next _ _⟩

theorem witness_EncodeAndReservedFrame :
    (∃ t, exec (.encode 13#5 cellsLetter) State.reset = .next t) ∧ ¬ Candidate 13 13#5 cellsLetter ∧
    (∃ t, exec (.reserved 4#3 13#5 cellsValid) State.reset = .next t) :=
  ⟨exec_answers_next _ _, by decide, exec_answers_next _ _⟩

/-- The clauses of `ExceptionTable` and of `StatusByteOfEachOutcome`. -/
theorem witness_ExceptionTable :
    State.reset.st.halt = false ∧ (∃ t, exec (.chkd 12#5 cellsValid) State.reset = .next t) ∧
    (∃ t, exec (.verify 13#5 cellsValid) State.reset = .next t) ∧
    (∃ t, exec (.verifyq 13#5 cellsValid) State.reset = .next t) ∧
    (∃ t, exec (.encode 13#5 cellsValid) State.reset = .next t) ∧
    (∃ t, exec (.reserved 7#3 13#5 cellsValid) State.reset = .next t) :=
  ⟨rfl, exec_answers_next _ _, exec_answers_next _ _, exec_answers_next _ _, exec_answers_next _ _, exec_answers_next _ _⟩

theorem witness_StatusByteOfEachOutcome :
    State.reset.st.halt = false ∧ ∀ i : Instr, ∃ t, exec i State.reset = .next t :=
  ⟨rfl, fun _ => exec_answers_next _ _⟩

/-- The clauses of `FatalHaltsUntilReset`: a command on a running engine, one on a halted engine, and a step that
clears `HALT`. -/
theorem witness_FatalHaltsUntilReset :
    (State.reset.st.halt = false ∧ ∃ t, exec (.reserved 4#3 13#5 cellsValid) State.reset = .next t) ∧
    haltedState.st.halt = true ∧
    (∃ t, step { haltedState with inputs := [.reset] } = .next t ∧ t.st.halt = false) :=
  ⟨⟨rfl, exec_answers_next _ _⟩, rfl, ⟨_, rfl, rfl⟩⟩

/-- `RaiseWritesStatusOnly`, each exception. -/
theorem witness_RaiseWritesStatusOnly :
    (∃ t, exec (.verify 12#5 cellsValid) State.reset = .next t ∧ t.st.err = some .formatError) ∧
    (∃ t, exec (.chkd 13#5 cellsValid) State.reset = .next t ∧ t.st.err = some .contractViolation) ∧
    (∃ t, exec (.reserved 4#3 13#5 cellsValid) State.reset = .next t ∧ t.st.err = some .illegalCommand) :=
  ⟨⟨_, rfl, by decide⟩, ⟨_, rfl, by decide⟩, ⟨_, rfl, by decide⟩⟩

theorem witness_FormatErrorLeavesNoTrace :
    State.reset.st.halt = false ∧
    ∃ t, exec (.encode 12#5 cellsValid) State.reset = .next t ∧ t.st.err = some .formatError :=
  ⟨rfl, _, rfl, by decide⟩

theorem witness_ResultsDependOnCommandAlone :
    State.reset.st.halt = false ∧ { State.reset with rb := true, rd := 9#4 }.st.halt = false ∧
    (∃ t, exec (.verify 13#5 cellsValid) State.reset = .next t) ∧
    (∃ t, exec (.verify 13#5 cellsValid) { State.reset with rb := true, rd := 9#4 } = .next t) :=
  ⟨rfl, rfl, exec_answers_next _ _, exec_answers_next _ _⟩

/-- The clauses of `StatusByteLayout` on `ERR`. -/
theorem witness_StatusByteLayout :
    State.reset.st.err = none ∧ haltedState.st.err = some .illegalCommand ∧
    (raise .formatError State.reset).st.err = some .formatError ∧
    (raise .contractViolation State.reset).st.err = some .contractViolation := by decide

theorem witness_InvalidRegisterReadsSayNothing :
    (State.reset.st.bv = false ∧ State.reset.st.dv = false ∧ State.reset.st.sv = false) ∧
    (writeRB true State.reset).st.bv = true ∧ (writeRD 9#4 State.reset).st.dv = true ∧
    (writeSYM 0#95 State.reset).st.sv = true := by decide

/-- The clauses of `SymbolWrittenWholeOrNotAtAll`. -/
theorem witness_SymbolWrittenWholeOrNotAtAll :
    State.reset.st.halt = false ∧ Candidate 13 13#5 cellsValid ∧
    ∃ t, exec (.encode 13#5 cellsValid) State.reset = .next t ∧ t.sym ≠ State.reset.sym :=
  ⟨rfl, by decide, _, rfl, by decide⟩

/-- `StepKeepsInvariant` on a state that the invariant constrains. -/
theorem witness_StepKeepsInvariant :
    (State.reset.withFetchWord 112 0x6D34303036333831333333393331).Inv ∧
    (State.reset.withFetchWord 112 0x6D34303036333831333333393331).live = true ∧
    ∃ t, step (State.reset.withFetchWord 112 0x6D34303036333831333333393331) = .next t :=
  ⟨fun _ => by constructor <;> simp [State.withFetchWord], rfl, _, rfl⟩

/-- An engine to which `VERIFYQ "4006381333931"` is presented. -/
def verifyqPresented : State := { State.reset with inputs := [.present (encode (.verifyq 13#5 cellsValid))] }

theorem witness_RunsWithoutFatalCommandsAreSafe :
    verifyqPresented.live = true ∧ verifyqPresented.st.halt = false ∧
    (∀ w, HostInput.present w ∈ verifyqPresented.inputs → ¬ FatalCommand (decode w)) := by
  refine ⟨rfl, rfl, fun w hw => ?_⟩
  have h : w = encode (.verifyq 13#5 cellsValid) := by simpa [verifyqPresented] using hw
  subst h
  simp [encode, decode, FatalCommand]

/-- The clauses of `StepRunsThePresentedCommand`. -/
theorem witness_StepRunsThePresentedCommand :
    verifyqPresented.live = true ∧ (Instr.verifyq 13#5 cellsValid).wf = true ∧
    verifyqPresented.inputs = .present (encode (.verifyq 13#5 cellsValid)) :: [] := by decide

/-- A halted engine to which the same is presented. -/
def haltedPresented : State := { verifyqPresented with st := haltedState.st }

/-- `EveryInputLeavesTheList` on a running and on a halted engine. -/
theorem witness_EveryInputLeavesTheList :
    (verifyqPresented.live = true ∧ verifyqPresented.inputs.length = 1 ∧ ∃ t, step verifyqPresented = .next t) ∧
    (haltedPresented.live = true ∧ haltedPresented.st.halt = true ∧
      haltedPresented.inputs = .present (encode (.verifyq 13#5 cellsValid)) :: []) :=
  ⟨⟨rfl, rfl, _, rfl⟩, by decide⟩

theorem witness_PresentedCommandCompletes :
    verifyqPresented.live = true ∧ verifyqPresented.st.halt = false ∧
    verifyqPresented.inputs = .present (encode (.verifyq 13#5 cellsValid)) :: [] := by decide

theorem witness_PlacedWordRunsNext : 0xFFFFFFFFFFFFFFFFFFFFFFFFFFFF < 2 ^ 112 := by decide

theorem witness_IdleEngineWaits : State.reset.inputs = [] := rfl

theorem witness_ResetFromAnyState : ({ haltedState with inputs := [.reset] }).inputs = .reset :: [] := rfl

theorem witness_CommandBeforeResetIsRefused :
    ({ State.reset with live := false, inputs := [.present 0#112] }).live = false ∧
    ({ State.reset with live := false, inputs := [.present 0#112] }).inputs = .present 0#112 :: [] := ⟨rfl, rfl⟩

/-- `WeightedSumWrittenOut` and `TamperingDetected` at the largest digits. -/
theorem witness_WeightedSumWrittenOut : ∀ i : Fin 12, (Vector.replicate 12 (9#4))[i].toNat ≤ 9 := by decide

/-- `CheckDigitIsTheCompletingDigit` at both ends of the digits. -/
theorem witness_CheckDigitIsTheCompletingDigit : (0 : Nat) ≤ 9 ∧ (9 : Nat) ≤ 9 := by decide

theorem witness_VerificationIsDivisibility :
    (∀ i : Fin 12, digitsValid.pop[i] = digitsValid[i.castSucc]) ∧ digitsValid[12].toNat ≤ 9 := by decide

theorem witness_CheckDigitRoundTrip :
    State.reset.st.halt = false ∧ Candidate 12 12#5 cellsValid ∧
    ∃ t, takeCommand (chkdEffect { e13 with w := wDoc } 12#5 cellsValid) State.reset = .next t :=
  ⟨rfl, by decide, _, rfl⟩

/-- The clauses of `TamperingDetected`: the weights, a changed digit, neighbours that differ by 5 and neighbours that
do not. -/
theorem witness_TamperingDetected :
    e13.WeightsOneOrThree ∧ e13Doc.WeightsOneOrThree ∧
    (∀ i : Fin 12, (#v[4, 0, 0, 6, 3, 8, 1, 3, 3, 3, 9, 3] : Vector Digit 12)[i].toNat ≤ 9) ∧
    (5#4 ≠ (#v[4, 0, 0, 6, 3, 8, 1, 3, 3, 3, 9, 3] : Vector Digit 12)[0] ∧ (5#4).toNat ≤ 9) ∧
    (3#4 ≠ 8#4 ∧ (3#4).toNat + 5 = (8#4).toNat) ∧ (9#4 ≠ 3#4 ∧ (3#4).toNat + 5 ≠ (9#4).toNat) := by decide

theorem witness_VerifyqFoldsVerify :
    State.reset.st.halt = false ∧ (∃ t, exec (.verify 13#5 cellsValid) State.reset = .next t) ∧
    ∃ t, exec (.verifyq 13#5 cellsValid) State.reset = .next t :=
  ⟨rfl, exec_answers_next _ _, exec_answers_next _ _⟩

theorem witness_AllZerosVerifies : ∀ i : Fin 13, (Vector.replicate 13 (0#4))[i] = 0#4 := by decide

/-- The two clauses of `LookupDomain` where they meet. -/
theorem witness_LookupDomain : (9#4).toNat < 10 ∧ 10 ≤ (10#4).toNat := by decide

theorem witness_SymbolLayout : ∀ i : Nat, (hi : i < 13) → (Vector.replicate 13 (9#4))[i].toNat < 10 := by
  intro i hi
  simp

theorem witness_EverySymbolIsGuarded : State.reset.st.halt = false ∧ Candidate 13 13#5 cellsValid := by decide

theorem witness_EncodingIsInjective :
    (∀ i : Fin 13, digitsValid[i].toNat ≤ 9) ∧
    encode13 e13 digitsValid = .ok 0x51A9D7BD12CD50A142E90B35#95 := ⟨by decide, by rfl⟩

/-- `EncodeIgnoresCheckDigit` at both ends of the digit characters. -/
theorem witness_EncodeIgnoresCheckDigit :
    State.reset.st.halt = false ∧ Candidate 13 13#5 cellsValid ∧ 0x30 ≤ (0x30#8).toNat ∧ (0x39#8).toNat ≤ 0x39 := by decide

theorem witness_AllZerosEncodes :
    State.reset.st.halt = false ∧ ∀ i : Fin 13, (Vector.replicate 13 (0x30#8))[i] = 0x30#8 := by decide

/-- Both clauses of `PipeEncodesExactlyValidIdentifiers` and of `ChkvReadsCheckDigitOfValidIdentifiers`. -/
theorem witness_PipeEncodesExactlyValidIdentifiers :
    State.reset.live = true ∧ State.reset.st.halt = false ∧ ValidIdentifier strValid ∧ ¬ ValidIdentifier strLetter ∧
    ∀ i : Fin 13, digitsValid[i].toNat = digitValue (strValid.getD i.val 0#8) := by decide

theorem witness_ChkvReadsCheckDigitOfValidIdentifiers :
    State.reset.live = true ∧ State.reset.st.halt = false ∧ ValidIdentifier strValid ∧ ¬ ValidIdentifier strLetter := by decide

theorem witness_MkidMakesValidIdentifiers :
    State.reset.live = true ∧ State.reset.st.halt = false ∧ (strValid.take 12).length = 12 ∧
    ∀ x ∈ strValid.take 12, 0x30 ≤ x.toNat ∧ x.toNat ≤ 0x39 := by decide

theorem witness_HostConditionsSayTheState :
    ({ engine := writeRB true State.reset, log := [], passOver := 0, stopped := false } : HostRun).engine.st.bv = true := rfl

/-- `HostCheckTellsFatalCommands` and `HostRecoversByReset`, on a command that halts and on one that does not. -/
theorem witness_HostCheckTellsFatalCommands :
    State.reset.live = true ∧ State.reset.st.halt = false ∧
    FatalCommand (decode 0x8D34303036333831333333393331#112) ∧
    ¬ FatalCommand (decode 0x4D34303036333831333333393331#112) := ⟨rfl, rfl, trivial, id⟩

theorem witness_HostRecoversByReset : State.reset.live = true ∧ State.reset.st.halt = false := by decide

/-- A host that goes on only while `HALT` is 0 reads `ST = 0x08` after a malformed `VERIFY`, and stops after a reserved word
(70_reset_and_hazards.md R167, 10_state.md R29). -/
theorem test_hostHaltCheck :
    (∃ h, runHost [.present (encode (.verify 12#5 cellsValid)), .compare .running, .read .st] State.reset = .next h ∧
      h.log = [(.halt, 0), (.st, 0x08)] ∧ h.stopped = false) ∧
    (∃ h, runHost [.present 0x8D34303036333831333333393331#112, .compare .running, .read .st] State.reset = .next h ∧
      h.log = [(.halt, 1)] ∧ h.stopped = true) := ⟨⟨_, rfl, rfl, rfl⟩, _, rfl, rfl, rfl⟩

/-- Two engines, each with a command presented. -/
def twoEngines : Platform :=
  { engines := [State.reset.withFetchWord 112 0x4D34303036333831333333393331,
      State.reset.withFetchWord 112 0x8D34303036333831333333393331] }

theorem witness_EnginesAreIndependent :
    twoEngines.engines[1]? = some (State.reset.withFetchWord 112 0x8D34303036333831333333393331) ∧
    (∀ rest, (State.reset.withFetchWord 112 0x8D34303036333831333333393331).inputs ≠ .reset :: rest) ∧
    ∃ q, twoEngines.step 1 = .next q :=
  ⟨rfl, by simp [State.withFetchWord], _, rfl⟩

theorem witness_ResetReachesEveryEngine :
    ({ engines := [haltedState, { haltedState with inputs := [.reset] }] } : Platform).engines[1]?
      = some { haltedState with inputs := [.reset] } ∧
    ∃ q, ({ engines := [haltedState, { haltedState with inputs := [.reset] }] } : Platform).step 1 = .next q :=
  ⟨rfl, _, rfl⟩

theorem witness_InterleavingChangesNoResult :
    (∀ s ∈ twoEngines.engines, HostInput.reset ∉ s.inputs) ∧ (∃ q, Platform.run [1, 0, 1] twoEngines = .next q) ∧
    twoEngines.engines[0]? = some (State.reset.withFetchWord 112 0x4D34303036333831333333393331) :=
  ⟨by decide, ⟨_, rfl⟩, rfl⟩

end Sys2Proof.Tests
end

section
/-! SUPPORT. What the host can see of a command is settled by the command alone (00_scope.md R3): two engines with the same
results keep them under every register operation, and `begin_command` makes any two running engines such. -/

namespace Sys2Proof.Machine

/-- `begin_command` leaves a running engine with `ST = 0x00`, whatever the command before it answered (10_state.md R28). -/
theorem begin_eq_reset_of_running {st : Status} (h : st.halt = false) : st.begin = Status.reset := by
  simp [Status.begin, Status.reset, h]

theorem sameResults_beginCommand {s t : State} (hs : s.st.halt = false) (ht : t.st.halt = false) :
    SameResults (beginCommand s) (beginCommand t) where
  st := by simp only [beginCommand_st, begin_eq_reset_of_running hs, begin_eq_reset_of_running ht]
  rb hv := by simp at hv
  rd hv := by simp at hv
  sym hv := by simp at hv

section
variable {s t : State} (h : SameResults s t)
include h

theorem sameResults_writeRB (b : Bool) : SameResults (writeRB b s) (writeRB b t) where
  st := by simp [h.st]
  rb _ := by simp
  rd := h.rd
  sym := h.sym

theorem sameResults_writeRD (d : Digit) : SameResults (writeRD d s) (writeRD d t) where
  st := by simp [h.st]
  rb := h.rb
  rd _ := by simp
  sym := h.sym

theorem sameResults_writeSYM (y : Symbol) : SameResults (writeSYM y s) (writeSYM y t) where
  st := by simp [h.st]
  rb := h.rb
  rd := h.rd
  sym _ := by simp

theorem sameResults_raise (e : Exc) : SameResults (raise e s) (raise e t) where
  st := by simp [h.st]
  rb := h.rb
  rd := h.rd
  sym := h.sym

theorem sameResults_chkdEffect (c : Config) (len : Len) (ch : Cells) :
    SameResults (chkdEffect c len ch s) (chkdEffect c len ch t) := by
  unfold chkdEffect
  split
  · exact sameResults_writeRD h _
  · exact sameResults_raise h _

theorem sameResults_verifyEffect (c : Config) (len : Len) (ch : Cells) :
    SameResults (verifyEffect c len ch s) (verifyEffect c len ch t) := by
  unfold verifyEffect
  split
  · exact sameResults_writeRB (sameResults_writeRD h _) _
  · exact sameResults_raise h _

theorem sameResults_verifyqEffect (c : Config) (len : Len) (ch : Cells) :
    SameResults (verifyqEffect c len ch s) (verifyqEffect c len ch t) :=
  sameResults_writeRB h _

theorem sameResults_encodeEffect (c : Config) (len : Len) (ch : Cells) :
    SameResults (encodeEffect c len ch s) (encodeEffect c len ch t) := by
  unfold encodeEffect
  split
  · cases encode13 c (digits c ch) with
    | ok y => exact sameResults_writeSYM h y
    | error e => exact sameResults_raise h e
  · exact sameResults_raise h _

/-- No command's effect reads a latch or a flag of the engine, so results that agree before it agree after it. -/
theorem sameResults_effectOf (i : Instr) : SameResults (effectOf i s) (effectOf i t) := by
  cases i with
  | chkd len ch => exact sameResults_chkdEffect h e13 len ch
  | verify len ch => exact sameResults_verifyEffect h e13 len ch
  | verifyq len ch => exact sameResults_verifyqEffect h e13 len ch
  | encode len ch => exact sameResults_encodeEffect h e13 len ch
  | reserved op len ch => exact sameResults_raise h .illegalCommand

end

/-- On a running engine a command answers its effect after `begin_command`. -/
theorem exec_running_next_iff {i : Instr} {s t : State} (h : s.st.halt = false) :
    exec i s = .next t ↔ t = effectOf i (beginCommand s) := by
  simp [exec_next_iff, h]

/-- Settles O18: `begin_command` makes two running engines agree, and the command's effect keeps them so. -/
theorem resultsDependOnCommandAlone : Obligations.ResultsDependOnCommandAlone := by
  intro i s₁ s₂ t₁ t₂ h₁ h₂ he₁ he₂
  rw [exec_running_next_iff h₁] at he₁
  rw [exec_running_next_iff h₂] at he₂
  subst he₁ he₂
  exact sameResults_effectOf (sameResults_beginCommand h₁ h₂) i

end Sys2Proof.Machine
end

section
/-! SUPPORT. One step of an engine to which a word is presented (00_scope.md R6, 10_state.md R23), and the decoder on the words
the encoder writes (30_encoding.md R72). -/

namespace Sys2Proof

/-- The decoder gives back every instruction the encoding can carry: only the reserved row asks for its `OP` to be 4 to 7. -/
theorem decode_encode {i : Instr} (h : i.wf = true) : decode (encode i) = i := by
  cases i with
  | chkd len ch => simp [encode, decode]
  | verify len ch => simp [encode, decode]
  | verifyq len ch => simp [encode, decode]
  | encode len ch => simp [encode, decode]
  | reserved op len ch =>
    have hop : 4 ≤ op.toNat := by simpa [Instr.wf] using h
    have hne : ∀ k : BitVec 3, k.toNat < 4 → op ≠ k := by
      rintro k hk rfl
      omega
    simp [encode, decode, hne]

/-- A word of the table's numbering at the format's full width is taken as it is (30_encoding.md R60). -/
theorem tableWord_full (w : Nat) : tableWord 112 w = BitVec.ofNat 112 w :=
  BitVec.eq_of_toNat_eq (by simp [tableWord])

end Sys2Proof

namespace Sys2Proof.Machine

/-- A word presented to an engine that has been reset is decoded and executed in the one step. -/
theorem step_present {s : State} {w : CommandWord} {rest : List HostInput} (hl : s.live = true)
    (hin : s.inputs = .present w :: rest) : step s = exec (decode w) { s with inputs := rest } := by
  simp [step, takeInput_cons hin, hl]

/-- Settles O26, by the step's rule for a presented word and `decode_encode`. -/
theorem stepRunsThePresentedCommand : Obligations.StepRunsThePresentedCommand := by
  intro s rest hl
  constructor
  · intro w hin
    exact step_present hl hin
  · intro i hwf hin
    rw [step_present hl hin, decode_encode hwf]

/-- The step after `withFetchWord` runs the placed word, on the engine as it was but for having been reset. -/
theorem step_withFetchWord (s : State) (nbits w : Nat) :
    step (s.withFetchWord nbits w) = exec (decode (tableWord nbits w)) { s with live := true } :=
  step_present (presentNext_live _ s) (presentNext_inputs _ s)

/-- Settles O27, by the step's rule for a placed word. Both sides read `w` modulo `2 ^ 112`, so its bound is not used. -/
theorem placedWordRunsNext : Obligations.PlacedWordRunsNext := by
  intro s w _
  constructor
  · simp [decodeTableWord, tableWord_full]
  · rw [step_withFetchWord, tableWord_full]

end Sys2Proof.Machine
end

section
/-! SUPPORT. What each command's effect does on a well-formed and on a malformed operand of E13, said once: the writes it makes,
the status register it leaves, and the registers it does not write (30_encoding.md R66, 10_state.md R25 to R29). -/

namespace Sys2Proof.Machine

/-- `wellformed(n)` under E13's character code, in the words of 30_encoding.md R65 and R66. -/
theorem wellformed_e13_iff {n : Nat} {len : Len} {ch : Cells} : wellformed e13 n len ch = true ↔ Candidate n len ch := by
  simp [wellformed_iff, isdigit_iff, Candidate]

/-- Each of the thirteen digits of a well-formed candidate is the one its cell stands for. -/
theorem digits_toNat_of_candidate {len : Len} {ch : Cells} (h : Candidate 13 len ch) (i : Fin 13) :
    (digits e13 ch)[i].toNat = digitValue ch[i] := by
  have hd : isdigit e13 ch[i] = true := (wellformed_iff _ _ _ _).mp (wellformed_e13_iff.mpr h) |>.2 i i.isLt
  simpa [digitValue] using digit_toNat e13 ch[i] hd

theorem digits_le_nine_of_candidate {len : Len} {ch : Cells} (h : Candidate 13 len ch) (i : Fin 13) :
    (digits e13 ch)[i].toNat ≤ 9 := by
  have := (h.2 i i.isLt).2
  rw [digits_toNat_of_candidate h, digitValue]
  omega

/-- The digits of a well-formed candidate have a symbol: the lookup's exception does not come (41_lut_parity.md R108). -/
theorem encode13_of_candidate {len : Len} {ch : Cells} (h : Candidate 13 len ch) :
    ∃ y, encode13 e13 (digits e13 ch) = .ok y := by
  obtain ⟨_, _, _, _, hy⟩ := encode13_inRange e13 (digits e13 ch) fun i hi =>
    Nat.lt_succ_of_le (digits_le_nine_of_candidate h ⟨i, hi⟩)
  exact ⟨_, hy⟩

section
variable {len : Len} {ch : Cells} (s : State)

theorem chkdEffect_of_candidate (h : Candidate 12 len ch) :
    chkdEffect e13 len ch s = writeRD (checkdigit e13 (prefixDigits e13 ch)) s :=
  if_pos (wellformed_e13_iff.mpr h)

theorem chkdEffect_of_malformed (h : ¬ Candidate 12 len ch) : chkdEffect e13 len ch s = raise .contractViolation s :=
  if_neg (mt wellformed_e13_iff.mp h)

theorem verifyEffect_of_candidate (h : Candidate 13 len ch) :
    verifyEffect e13 len ch s =
      writeRB (checkdigit e13 (prefixDigits e13 ch) == (digits e13 ch)[12])
        (writeRD (checkdigit e13 (prefixDigits e13 ch)) s) :=
  if_pos (wellformed_e13_iff.mpr h)

theorem verifyEffect_of_malformed (h : ¬ Candidate 13 len ch) : verifyEffect e13 len ch s = raise .formatError s :=
  if_neg (mt wellformed_e13_iff.mp h)

theorem encodeEffect_of_candidate (h : Candidate 13 len ch) {y : Symbol} (hy : encode13 e13 (digits e13 ch) = .ok y) :
    encodeEffect e13 len ch s = writeSYM y s := by
  simp only [encodeEffect, if_pos (wellformed_e13_iff.mpr h), hy]

theorem encodeEffect_of_malformed (h : ¬ Candidate 13 len ch) : encodeEffect e13 len ch s = raise .formatError s :=
  if_neg (mt wellformed_e13_iff.mp h)

end

section
variable (len : Len) (ch : Cells) (s : State)

/-- `ST` after `CHKD` (40_checksum.md R86). -/
theorem chkdEffect_st :
    (chkdEffect e13 len ch s).st =
      if Candidate 12 len ch then { s.st with dv := true } else s.st.raise .contractViolation := by
  split_ifs with h
  · simp [chkdEffect_of_candidate s h]
  · simp [chkdEffect_of_malformed s h]

/-- `ST` after `VERIFY` (40_checksum.md R87). -/
theorem verifyEffect_st :
    (verifyEffect e13 len ch s).st =
      if Candidate 13 len ch then { s.st with bv := true, dv := true } else s.st.raise .formatError := by
  split_ifs with h
  · simp [verifyEffect_of_candidate s h]
  · simp [verifyEffect_of_malformed s h]

/-- `ST` after `VERIFYQ` (40_checksum.md R88). -/
theorem verifyqEffect_st (c : Config) : (verifyqEffect c len ch s).st = { s.st with bv := true } := rfl

/-- `ST` after `ENCODE` (42_framer.md R125). -/
theorem encodeEffect_st :
    (encodeEffect e13 len ch s).st =
      if Candidate 13 len ch then { s.st with sv := true } else s.st.raise .formatError := by
  split_ifs with h
  · obtain ⟨y, hy⟩ := encode13_of_candidate h
    simp [encodeEffect_of_candidate s h hy]
  · simp [encodeEffect_of_malformed s h]

@[simp] theorem chkdEffect_sym (c : Config) : (chkdEffect c len ch s).sym = s.sym := by
  unfold chkdEffect
  split <;> rfl

@[simp] theorem verifyEffect_sym (c : Config) : (verifyEffect c len ch s).sym = s.sym := by
  unfold verifyEffect
  split <;> rfl

@[simp] theorem verifyqEffect_sym (c : Config) : (verifyqEffect c len ch s).sym = s.sym := rfl

end

/-- What `begin_command` leaves in `ST` of a running engine (10_state.md R28). -/
theorem beginCommand_st_of_running {s : State} (h : s.st.halt = false) : (beginCommand s).st = Status.reset :=
  begin_eq_reset_of_running h

end Sys2Proof.Machine
end

section
/-! SUPPORT. The invariant of the state (Safety.lean): it holds wherever `ST` is 0, and each register write and exception keeps it
where a command makes it. -/

namespace Sys2Proof.Machine

/-- The invariant promises nothing of the latches while `ST` is 0. -/
theorem State.Consistent.of_st_reset {s : State} (h : s.st = Status.reset) : s.Consistent where
  haltFatal := by simp [h]
  failedNoResult _ := by simp [h]
  digitRange hv := by simp [h] at hv
  symbolAlone hv := by simp [h] at hv
  symbolWhole hv := by simp [h] at hv

/-- The invariant speaks of `ST`, `RD` and `SYM` alone, not of what the host does next. -/
theorem State.Consistent.withInputs {s : State} (h : s.Consistent) (rest : List HostInput) :
    State.Consistent { s with inputs := rest } where
  haltFatal := h.haltFatal
  failedNoResult := h.failedNoResult
  digitRange := h.digitRange
  symbolAlone := h.symbolAlone
  symbolWhole := h.symbolWhole

/-- An exception taken where no flag is set yet leaves none set, and `HALT` as its code says (60_exceptions.md R145). -/
theorem consistent_raise {s : State} (h : s.st = Status.reset) (e : Exc) : (raise e s).Consistent where
  haltFatal := by simp [h]
  failedNoResult _ := by simp [h]
  digitRange hv := by simp [h] at hv
  symbolAlone hv := by simp [h] at hv
  symbolWhole hv := by simp [h] at hv

section
variable {s : State} (h : s.Consistent) (herr : s.st.err = none)
include h herr

theorem State.Consistent.writeRB (hsv : s.st.sv = false) (b : Bool) : (writeRB b s).Consistent where
  haltFatal := h.haltFatal
  failedNoResult he := absurd herr he
  digitRange := h.digitRange
  symbolAlone hv := by simp [hsv] at hv
  symbolWhole hv := by simp [hsv] at hv

theorem State.Consistent.writeRD (hsv : s.st.sv = false) {d : Digit} (hd : d.toNat ≤ 9) : (writeRD d s).Consistent where
  haltFatal := h.haltFatal
  failedNoResult he := absurd herr he
  digitRange _ := hd
  symbolAlone hv := by simp [hsv] at hv
  symbolWhole hv := by simp [hsv] at hv

theorem State.Consistent.writeSYM (hbv : s.st.bv = false) (hdv : s.st.dv = false) {d : Vector Digit 13} {y : Symbol}
    (hd : ∀ i : Fin 13, d[i].toNat ≤ 9) (hy : encode13 e13 d = .ok y) : (writeSYM y s).Consistent where
  haltFatal := h.haltFatal
  failedNoResult he := absurd herr he
  digitRange hv := by simp [hdv] at hv
  symbolAlone _ := ⟨hbv, hdv⟩
  symbolWhole _ := ⟨d, hd, hy⟩

end

/-- Every command's effect, from the `ST = 0` that `begin_command` leaves, ends where the invariant holds. -/
theorem consistent_effectOf {s : State} (h : s.st = Status.reset) (i : Instr) : (effectOf i s).Consistent := by
  have hs : s.Consistent := .of_st_reset h
  have herr : s.st.err = none := by simp [h]
  have hsv : s.st.sv = false := by simp [h]
  cases i with
  | chkd len ch =>
    by_cases hc : Candidate 12 len ch
    · simpa only [effectOf, chkdEffect_of_candidate s hc] using hs.writeRD herr hsv (checkdigit_le_nine _ _)
    · simpa only [effectOf, chkdEffect_of_malformed s hc] using consistent_raise h _
  | verify len ch =>
    by_cases hc : Candidate 13 len ch
    · simpa only [effectOf, verifyEffect_of_candidate s hc] using
        (hs.writeRD herr hsv (checkdigit_le_nine _ _)).writeRB herr hsv _
    · simpa only [effectOf, verifyEffect_of_malformed s hc] using consistent_raise h _
  | verifyq len ch => exact hs.writeRB herr hsv _
  | encode len ch =>
    by_cases hc : Candidate 13 len ch
    · obtain ⟨y, hy⟩ := encode13_of_candidate hc
      simpa only [effectOf, encodeEffect_of_candidate s hc hy] using
        hs.writeSYM herr (by simp [h]) (by simp [h]) (digits_le_nine_of_candidate hc) hy
    · simpa only [effectOf, encodeEffect_of_malformed s hc] using consistent_raise h _
  | reserved op len ch => exact consistent_raise h _

/-- A presented command keeps the invariant: a halted engine does not change, and a running one starts from `ST = 0`. -/
theorem State.Consistent.exec {i : Instr} {s t : State} (hs : s.Consistent) (he : exec i s = .next t) : t.Consistent := by
  obtain ⟨_, rfl⟩ | ⟨hrun, rfl⟩ := exec_next_iff.mp he
  · exact hs
  · exact consistent_effectOf (beginCommand_st_of_running hrun) i

/-- Settles O23: a step waits, resets to `ST = 0`, or takes a command of an engine that has been reset. -/
theorem stepKeepsInvariant : Obligations.StepKeepsInvariant := by
  intro s t hs hstep
  obtain ⟨_, rfl⟩ | ⟨rest, _, rfl⟩ | ⟨w, rest, _, hl, he⟩ := step_next_cases hstep
  · exact hs
  · exact fun _ => .of_st_reset (assertReset_st _)
  · exact fun _ => ((hs hl).withInputs rest).exec he

/-- Settles O24: with `ST = 0` the invariant holds of any latches. -/
theorem resetMeetsInvariant : Obligations.ResetMeetsInvariant :=
  ⟨fun _ => .of_st_reset State.reset_st, State.reset_live, rfl⟩

end Sys2Proof.Machine
end

section
/-! SUPPORT. The status byte and the symbol register after each outcome of a command (10_state.md R24, R27, R29), and what the
host reads of the registers (R30). -/

namespace Sys2Proof.Machine

/-- Settles O20: the byte of the status each effect leaves, from the `ST = 0` that `begin_command` leaves. -/
theorem statusByteOfEachOutcome : Obligations.StatusByteOfEachOutcome := by
  intro op len ch s t hrun
  have hst : (beginCommand s).st = Status.reset := beginCommand_st_of_running hrun
  simp only [exec_running_next_iff hrun, effectOf, readST]
  refine ⟨?_, ?_, ?_, ?_, ?_⟩ <;> rintro rfl
  · rw [chkdEffect_st, hst, apply_ite Status.byte]; rfl
  · rw [verifyEffect_st, hst, apply_ite Status.byte]; rfl
  · rw [verifyqEffect_st, hst]; rfl
  · rw [encodeEffect_st, hst, apply_ite Status.byte]; rfl
  · rw [raise_st, hst]; rfl

/-- Where `SV` is 0, a command's effect sets it exactly if the command is a well-formed `ENCODE`. -/
theorem effectOf_sv_iff {s : State} (h : s.st.sv = false) (i : Instr) :
    (effectOf i s).st.sv = true ↔ ∃ len ch, i = .encode len ch ∧ Candidate 13 len ch := by
  cases i with
  | chkd len ch => simp [effectOf, chkdEffect_st, apply_ite Status.sv, h]
  | verify len ch => simp [effectOf, verifyEffect_st, apply_ite Status.sv, h]
  | verifyq len ch => simp [effectOf, verifyqEffect_st, h]
  | encode len ch => simp [effectOf, encodeEffect_st, apply_ite Status.sv, h]
  | reserved op len ch => simp [effectOf, h]

/-- The effect of a command that is no well-formed `ENCODE` does not write `SYM`. -/
theorem effectOf_sym {i : Instr} (h : ∀ len ch, i = .encode len ch → ¬ Candidate 13 len ch) (s : State) :
    (effectOf i s).sym = s.sym := by
  cases i with
  | chkd len ch => exact chkdEffect_sym len ch s e13
  | verify len ch => exact verifyEffect_sym len ch s e13
  | verifyq len ch => exact verifyqEffect_sym len ch s e13
  | encode len ch => rw [effectOf, encodeEffect_of_malformed s (h len ch rfl), raise_sym]
  | reserved op len ch => exact raise_sym _ s

/-- Settles O22: `begin_command` clears `SV`, a well-formed `ENCODE` sets it with the symbol of its digits, and no other command
writes `SYM`. -/
theorem symbolWrittenWholeOrNotAtAll : Obligations.SymbolWrittenWholeOrNotAtAll := by
  intro i s t hrun he
  rw [exec_running_next_iff hrun] at he
  subst he
  have hsv := effectOf_sv_iff (s := beginCommand s) rfl i
  refine ⟨hsv, ?_, ?_⟩
  · rintro len ch rfl hc
    obtain ⟨y, hy⟩ := encode13_of_candidate hc
    refine ⟨digits e13 ch, digits_toNat_of_candidate hc, ?_⟩
    rw [effectOf, encodeEffect_of_candidate _ hc hy, writeSYM_sym, hy]
  · intro hsym
    by_contra hno
    exact hsym (effectOf_sym (fun len ch hi hc => hno (hsv.mpr ⟨len, ch, hi, hc⟩)) (beginCommand s))

/-- Bits 7:6 of the byte read from `ST` are hard-wired zero (10_state.md R24). -/
theorem readST_highBits (s : State) : (readST s).getLsbD 6 = false ∧ (readST s).getLsbD 7 = false := by
  have hbit (j : Nat) : (readST s).getLsbD j = BitVec.getLsbD (w := 2 + 1 + 2 + 1 + 1 + 1) s.st.byte j := rfl
  rw [hbit 6, hbit 7]
  simp only [Status.byte, BitVec.getLsbD_append]
  simp

theorem Status.errCode_of_none {st : Status} (h : st.err = none) : st.errCode = 0#2 := by
  simp [Status.errCode, h]

theorem Status.errCode_of_some {st : Status} {e : Exc} (h : st.err = some e) : st.errCode = e.code := by
  simp [Status.errCode, h]

/-- Settles O19: the named reads of the bits, and the exception's code in `ERR`. -/
theorem statusByteLayout : Obligations.StatusByteLayout := by
  intro s
  have herr : (readST s).extractLsb' 3 2 = s.st.errCode := readERR_eq s
  obtain ⟨h6, h7⟩ := readST_highBits s
  exact ⟨readBV_eq s, readDV_eq s, readSV_eq s, readHALT_eq s, h6, h7,
    fun h => herr.trans (Status.errCode_of_none h), fun h => herr.trans (Status.errCode_of_some h),
    fun h => herr.trans (Status.errCode_of_some h), fun h => herr.trans (Status.errCode_of_some h)⟩

section
variable {s : State} {k : Nat}

theorem readRB_of_valid (h : s.st.bv = true) : readRB k s = s.rb := if_pos h

theorem readRD_of_valid (h : s.st.dv = true) : readRD k s = s.rd := if_pos h

theorem readSYM_of_valid (h : s.st.sv = true) : readSYM k s = s.sym := if_pos h

theorem readRB_of_invalid (b : Bool) (h : s.st.bv = false) : readRB k { s with rb := b } = readRB k s := by
  simp [readRB, h]

theorem readRD_of_invalid (d : Digit) (h : s.st.dv = false) : readRD k { s with rd := d } = readRD k s := by
  simp [readRD, h]

theorem readSYM_of_invalid (y : Symbol) (h : s.st.sv = false) : readSYM k { s with sym := y } = readSYM k s := by
  simp [readSYM, h]

end

/-- Settles O21: the read looks at the flag first, and at the latch only if the flag is 1. -/
theorem invalidRegisterReadsSayNothing : Obligations.InvalidRegisterReadsSayNothing := by
  intro s k b d y
  exact ⟨readRB_of_valid, readRB_of_invalid b, readRD_of_valid, readRD_of_invalid d, readSYM_of_valid, readSYM_of_invalid y⟩

/-- Settles O29: there is no input to take. -/
theorem idleEngineWaits : Obligations.IdleEngineWaits := by
  intro s h
  simp [step, takeInput_nil h]

end Sys2Proof.Machine
end

section
/-! SUPPORT. What the host does next to an engine: no command writes that list, each step takes one input off it, and a live engine
answers every one of its steps (20_memory.md R51 (a), 60_exceptions.md R143). -/

namespace Sys2Proof.Machine

/-- The effects write registers and `ST`, and nothing else of the engine. -/
theorem effectOf_live_and_inputs (i : Instr) (s : State) :
    (effectOf i s).live = s.live ∧ (effectOf i s).inputs = s.inputs := by
  cases i with
  | chkd len ch =>
    by_cases h : Candidate 12 len ch
    · simp [effectOf, chkdEffect_of_candidate s h]
    · simp [effectOf, chkdEffect_of_malformed s h]
  | verify len ch =>
    by_cases h : Candidate 13 len ch
    · simp [effectOf, verifyEffect_of_candidate s h]
    · simp [effectOf, verifyEffect_of_malformed s h]
  | verifyq len ch => exact ⟨rfl, rfl⟩
  | encode len ch =>
    by_cases h : Candidate 13 len ch
    · obtain ⟨y, hy⟩ := encode13_of_candidate h
      simp [effectOf, encodeEffect_of_candidate s h hy]
    · simp [effectOf, encodeEffect_of_malformed s h]
  | reserved op len ch => exact ⟨rfl, rfl⟩

@[simp] theorem effectOf_live (i : Instr) (s : State) : (effectOf i s).live = s.live :=
  (effectOf_live_and_inputs i s).1

@[simp] theorem effectOf_inputs (i : Instr) (s : State) : (effectOf i s).inputs = s.inputs :=
  (effectOf_live_and_inputs i s).2

section
variable {i : Instr} {s t : State}

theorem exec_live (h : exec i s = .next t) : t.live = s.live := by
  obtain ⟨_, rfl⟩ | ⟨_, rfl⟩ := exec_next_iff.mp h
  · rfl
  · simp

theorem exec_inputs (h : exec i s = .next t) : t.inputs = s.inputs := by
  obtain ⟨_, rfl⟩ | ⟨_, rfl⟩ := exec_next_iff.mp h
  · rfl
  · simp

/-- On a halted engine a command is not taken (60_exceptions.md R143). -/
theorem exec_halted (i : Instr) (h : s.st.halt = true) : exec i s = .next s :=
  exec_next_iff.mpr (.inl ⟨h, rfl⟩)

/-- A step takes the first input, if there is one, off the list, whichever it is. -/
theorem step_inputs (h : step s = .next t) : t.inputs = s.inputs.tail := by
  obtain ⟨hin, rfl⟩ | ⟨rest, hin, rfl⟩ | ⟨w, rest, hin, _, he⟩ := step_next_cases h
  · simp [hin]
  · simp [hin]
  · simp [hin, exec_inputs he]

theorem step_live (hl : s.live = true) (h : step s = .next t) : t.live = true := by
  obtain ⟨_, rfl⟩ | ⟨rest, _, rfl⟩ | ⟨w, rest, _, _, he⟩ := step_next_cases h
  · exact hl
  · exact assertReset_live _
  · exact (exec_live he).trans hl

/-- Nothing the host does stops an engine that has been reset. -/
theorem step_answers_next (hl : s.live = true) : ∃ t, step s = .next t := by
  match hin : s.inputs with
  | [] => exact ⟨s, idleEngineWaits s hin⟩
  | .reset :: rest => exact ⟨_, by rw [step, takeInput_cons hin]⟩
  | .present w :: rest =>
    rw [step_present hl hin]
    exact exec_answers_next _ _

/-- A run begins with one step of the engine. -/
theorem core_run_succ (k : Nat) (h : step s = .next t) :
    Host.Core.run Sys2Proof.core (k + 1) s = Host.Core.run Sys2Proof.core k t := by
  have hstep : Sys2Proof.core.step s = .next t := h
  simp only [Host.Core.run, hstep]

end

/-- A live engine gets as far as it is run, and each step of the run has taken one input off the list. -/
theorem core_run_of_live (k : Nat) {s : State} (hl : s.live = true) :
    ∃ t, Host.Core.run Sys2Proof.core k s = .next t ∧ t.inputs = s.inputs.drop k ∧ t.live = true := by
  induction k generalizing s with
  | zero => exact ⟨s, rfl, rfl, hl⟩
  | succ k ih =>
    obtain ⟨u, hu⟩ := step_answers_next hl
    obtain ⟨t, hrun, hin, hlive⟩ := ih (step_live hl hu)
    exact ⟨t, (core_run_succ k hu).trans hrun, by rw [hin, step_inputs hu, List.drop_tail], hlive⟩

/-- Settles O28: each step takes one input off the list, a halted engine passes a command over, and a live engine answers as many
steps as it has inputs. -/
theorem everyInputLeavesTheList : Obligations.EveryInputLeavesTheList := by
  refine ⟨fun s t => step_inputs, ?_, ?_⟩
  · intro s w rest hl hhalt hin
    rw [step_present hl hin]
    exact exec_halted _ hhalt
  · intro s hl
    obtain ⟨t, hrun, hin, hlive⟩ := core_run_of_live s.inputs.length hl
    exact ⟨t, hrun, by rw [hin, List.drop_length], hlive⟩

end Sys2Proof.Machine
end

section
/-! SUPPORT. A platform's step and its run under a schedule (60_exceptions.md R153), and that no schedule without resets can be told
from each engine's own steps (20_memory.md R51 (c)). -/

namespace Sys2Proof.Machine

/-- What is taken is the first input on the host's list. -/
theorem takeInput_eq_some_iff {s s' : State} {x : HostInput} :
    takeInput s = some (x, s') ↔ ∃ rest, s.inputs = x :: rest ∧ s' = { s with inputs := rest } := by
  cases hin : s.inputs with
  | nil => simp [takeInput_nil hin]
  | cons y rest => simp [takeInput_cons hin, eq_comm]

/-- All a platform's step can do when it answers a next platform: the engine it names takes a reset, which reaches every engine, or
takes its own step. -/
theorem Platform.step_next_cases {p q : Platform} {k : Nat} (h : p.step k = .next q) :
    ∃ s, p.engines[k]? = some s ∧
      ((∃ rest, s.inputs = .reset :: rest ∧
          q = Platform.assertReset { engines := p.engines.set k { s with inputs := rest } }) ∨
        ((∀ rest, s.inputs ≠ .reset :: rest) ∧ ∃ t, Machine.step s = .next t ∧ q = { engines := p.engines.set k t })) := by
  unfold Platform.step at h
  cases hk : p.engines[k]? with
  | none => simp [hk] at h
  | some s =>
    refine ⟨s, rfl, ?_⟩
    simp only [hk] at h
    split at h
    next s' htake =>
      obtain ⟨rest, hin, rfl⟩ := takeInput_eq_some_iff.mp htake
      exact .inl ⟨rest, hin, by simpa using h.symm⟩
    next hother =>
      refine .inr ⟨fun rest hin => hother _ (takeInput_cons hin), ?_⟩
      cases hs : Machine.step s with
      | next t => exact ⟨t, rfl, by simpa [hs] using h.symm⟩
      | fault r => simp [hs] at h
      | refused r => simp [hs] at h

/-- A schedule is run one step at a time. -/
theorem Platform.run_cons_next_iff {p q : Platform} {k : Nat} {schedule : List Nat} :
    Platform.run (k :: schedule) p = .next q ↔ ∃ r, p.step k = .next r ∧ Platform.run schedule r = .next q := by
  rw [Platform.run]
  cases p.step k <;> simp

/-- No engine has a reset among the things its host does next. -/
def Platform.ResetFree (p : Platform) : Prop := ∀ s ∈ p.engines, HostInput.reset ∉ s.inputs

/-- A step of a platform without resets is a step of the engine it names. -/
theorem Platform.ResetFree.step {p q : Platform} {k : Nat} (hp : p.ResetFree) (h : p.step k = .next q) :
    ∃ s t, p.engines[k]? = some s ∧ Machine.step s = .next t ∧ q = { engines := p.engines.set k t } := by
  obtain ⟨s, hk, ⟨rest, hin, _⟩ | ⟨_, t, hs, hq⟩⟩ := Platform.step_next_cases h
  · exact absurd (by simp [hin]) (hp s (List.mem_of_getElem? hk))
  · exact ⟨s, t, hk, hs, hq⟩

/-- The engine that moved has one input fewer, and the others have theirs. -/
theorem Platform.ResetFree.set {p : Platform} {k : Nat} {s t : State} (hp : p.ResetFree) (hk : p.engines[k]? = some s)
    (h : Machine.step s = .next t) : Platform.ResetFree { engines := p.engines.set k t } := by
  intro u hu
  obtain hu | rfl := List.mem_or_eq_of_mem_set hu
  · exact hp u hu
  · rw [step_inputs h]
    exact mt List.mem_of_mem_tail (hp s (List.mem_of_getElem? hk))

/-- Settles O53, by induction on the schedule: its first step is the engine's own first step, or leaves the engine as it is. -/
theorem interleavingChangesNoResult : Obligations.InterleavingChangesNoResult := by
  intro schedule p q hp hrun k s hs
  induction schedule generalizing p s with
  | nil =>
    obtain rfl : p = q := by simpa [Platform.run] using hrun
    exact ⟨s, rfl, hs⟩
  | cons j rest ih =>
    obtain ⟨_, hstep, hrest⟩ := Platform.run_cons_next_iff.mp hrun
    obtain ⟨u, t, hj, hu, rfl⟩ := Platform.ResetFree.step hp hstep
    have hnext := ih _ (Platform.ResetFree.set hp hj hu) hrest
    by_cases hjk : j = k
    · subst hjk
      obtain rfl : u = s := Option.some.inj (hj.symm.trans hs)
      rw [List.count_cons_self, core_run_succ _ hu]
      exact hnext t (List.getElem?_set_self (List.getElem?_eq_some_iff.mp hj).1)
    · rw [List.count_cons_of_ne hjk]
      exact hnext s ((List.getElem?_set_ne hjk).trans hs)

end Sys2Proof.Machine
end

section
/-! SUPPORT. What the checksum unit and the encoder read of the configuration (20_memory.md R44). -/

namespace Sys2Proof.Machine

/-- Settles O39: the checksum commands read the character code and the weights of a configuration, and `ENCODE` the character code,
the tables and the guards; so the fields that differ are read by neither side. -/
theorem unitsShareNothing : Obligations.UnitsShareNothing := by
  intro c lodd leven reven par w len ch s
  exact ⟨rfl, rfl, rfl, rfl⟩

end Sys2Proof.Machine
end

section
/-! SUPPORT. The fields the decoder reads from any word (30_encoding.md R61), as numbers, and that they are the whole word: nothing of
it is lost in decoding (R72). -/

namespace Sys2Proof

section
variable (w : CommandWord)

theorem opField_toNat : (opField w).toNat = w.toNat / 2 ^ 109 := by
  have hw := w.isLt
  simp only [opField, BitVec.extractLsb'_toNat, Nat.shiftRight_eq_div_pow]
  omega

theorem lenField_toNat : (lenField w).toNat = w.toNat / 2 ^ 104 % 32 := by
  simp [lenField, Nat.shiftRight_eq_div_pow]

theorem cellField_toNat (i : Fin 13) : (cellField w i).toNat = w.toNat / 2 ^ (96 - 8 * i.val) % 256 := by
  simp [cellField, Nat.shiftRight_eq_div_pow]

@[simp] theorem cellsField_getElem (i : Nat) (h : i < 13) : (cellsField w)[i] = cellField w ⟨i, h⟩ := by
  simp [cellsField]

/-- The fields cover the word without gap or overlap (30_encoding.md R61). -/
theorem formatC_fields : formatC (opField w) (lenField w) (cellsField w) = w := by
  simp only [formatC, opField, lenField, cellsField_getElem, cellField, BitVec.extractLsb'_append_extractLsb'_eq_extractLsb']
  exact BitVec.extractLsb'_eq_self

theorem opField_eq_iff (k : BitVec 3) : opField w = k ↔ w.toNat / 2 ^ 109 = k.toNat := by
  rw [← BitVec.toNat_inj, opField_toNat]

end

section
variable {w : CommandWord}

/-! One equation per row of the opcode map (30_encoding.md R62). -/

theorem decode_of_op_zero (h : opField w = 0#3) : decode w = .chkd (lenField w) (cellsField w) := by
  simp [decode, h]

theorem decode_of_op_one (h : opField w = 1#3) : decode w = .verify (lenField w) (cellsField w) := by
  simp [decode, h]

theorem decode_of_op_two (h : opField w = 2#3) : decode w = .verifyq (lenField w) (cellsField w) := by
  simp [decode, h]

theorem decode_of_op_three (h : opField w = 3#3) : decode w = .encode (lenField w) (cellsField w) := by
  simp [decode, h]

theorem decode_of_op_reserved (h : 4 ≤ (opField w).toNat) :
    decode w = .reserved (opField w) (lenField w) (cellsField w) := by
  have hne : ∀ k : BitVec 3, k.toNat < 4 → opField w ≠ k := by
    rintro k hk rfl
    omega
  simp [decode, hne]

/-- Every `OP` has its row in the opcode map (30_encoding.md R62). -/
theorem opField_cases (w : CommandWord) :
    opField w = 0#3 ∨ opField w = 1#3 ∨ opField w = 2#3 ∨ opField w = 3#3 ∨ 4 ≤ (opField w).toNat := by
  simp only [← BitVec.toNat_inj, BitVec.toNat_ofNat]
  omega

end

/-- What is decoded is an instruction whose encoding is format `C` of the word's own fields (30_encoding.md R68, R72). -/
theorem decode_wf_and_encode (w : CommandWord) :
    (decode w).wf = true ∧ encode (decode w) = formatC (opField w) (lenField w) (cellsField w) := by
  obtain h | h | h | h | h := opField_cases w
  · rw [decode_of_op_zero h, h]; exact ⟨rfl, rfl⟩
  · rw [decode_of_op_one h, h]; exact ⟨rfl, rfl⟩
  · rw [decode_of_op_two h, h]; exact ⟨rfl, rfl⟩
  · rw [decode_of_op_three h, h]; exact ⟨rfl, rfl⟩
  · rw [decode_of_op_reserved h]; exact ⟨decide_eq_true h, rfl⟩

end Sys2Proof

namespace Sys2Proof.Machine

/-- Settles O1: the decoder reads each field where the encoder put it. -/
theorem decodeOfEncodeIsTheInstruction : Obligations.DecodeOfEncodeIsTheInstruction :=
  fun _ => decode_encode

/-- Settles O2: the decoder keeps every field, and the fields are the whole word. -/
theorem encodeOfDecodeIsTheWord : Obligations.EncodeOfDecodeIsTheWord := by
  intro w
  obtain ⟨hwf, henc⟩ := decode_wf_and_encode w
  exact ⟨hwf, henc.trans (formatC_fields w)⟩

/-- Settles O3: the fields as numbers, and the row of the opcode map that `OP` selects. -/
theorem decodeReadsOpLenAndCells : Obligations.DecodeReadsOpLenAndCells := by
  intro w
  refine ⟨lenField w, cellsField w, lenField_toNat w, fun i => ?_, fun h => ?_, fun h => ?_, fun h => ?_, fun h => ?_,
    fun h => ?_⟩
  · rw [Fin.getElem_fin, cellsField_getElem, cellField_toNat]
  · exact decode_of_op_zero ((opField_eq_iff w _).mpr h)
  · exact decode_of_op_one ((opField_eq_iff w _).mpr h)
  · exact decode_of_op_two ((opField_eq_iff w _).mpr h)
  · exact decode_of_op_three ((opField_eq_iff w _).mpr h)
  · exact ⟨opField w, opField_toNat w, decode_of_op_reserved (by rwa [opField_toNat])⟩

/-- Settles O4, by running the assembler and the decoder on the printed words. -/
theorem specWordsDecode : Obligations.SpecWordsDecode := by
  refine ⟨?_, ?_, ?_, ?_, ?_, ?_, ?_⟩ <;> decide

end Sys2Proof.Machine
end

section
/-! SUPPORT. What of its operand a command does not read: the cells of a candidate of the wrong length, and the last cell under `CHKD`
(30_encoding.md R64, R66, R68). -/

namespace Sys2Proof.Machine

/-- The digits of E13's well-formed candidate are those of its cells (30_encoding.md R66). -/
theorem digits_of_wellformed {n : Nat} {len : Len} {ch : Cells} (h : wellformed e13 n len ch = true) (i : Fin 13) (hi : i.val < n) :
    (digits e13 ch)[i].toNat = ch[i].toNat - 0x30 ∧ (digits e13 ch)[i].toNat ≤ 9 := by
  have hd : isdigit e13 ch[i] = true := ((wellformed_iff e13 n len ch).mp h).2 i hi
  have heq : (digits e13 ch)[i] = digit e13 ch[i] := digits_getElem e13 ch i i.isLt
  rw [heq]
  exact ⟨digit_toNat e13 ch[i] hd, digit_le_nine e13 ch[i] hd⟩

/-- Settles O6: well-formedness under E13's character code, and the digits cell by cell. -/
theorem wellformedIffDigitCharacters : Obligations.WellformedIffDigitCharacters :=
  fun _ _ _ => ⟨wellformed_e13_iff, digits_of_wellformed⟩

theorem verifyqEffect_of_malformed {len : Len} {ch : Cells} (s : State) (h : ¬ Candidate 13 len ch) :
    verifyqEffect e13 len ch s = writeRB false s := by
  have hw : wellformed e13 13 len ch = false := by simpa using mt wellformed_e13_iff.mp h
  simp [verifyqEffect, hw]

section
variable {ch ch' : Cells} (h : ∀ i : Fin 13, i.val < 12 → ch[i] = ch'[i])
include h

/-- Whether the first twelve cells are well-formed does not depend on the last cell. -/
theorem wellformed_twelve_congr (c : Config) (len : Len) : wellformed c 12 len ch = wellformed c 12 len ch' := by
  rw [Bool.eq_iff_iff, wellformed_iff, wellformed_iff]
  refine and_congr_right' (forall₂_congr fun i hi => ?_)
  rw [h i hi]

theorem prefixDigits_congr (c : Config) : prefixDigits c ch = prefixDigits c ch' := by
  ext1 i hi
  have hcell : ch[i] = ch'[i] := h ⟨i, by omega⟩ hi
  rw [prefixDigits_getElem, prefixDigits_getElem, hcell]

/-- `CHKD` does not read the last cell (30_encoding.md R64). -/
theorem chkdEffect_congr (c : Config) (len : Len) (s : State) : chkdEffect c len ch s = chkdEffect c len ch' s := by
  rw [chkdEffect, chkdEffect, wellformed_twelve_congr h, prefixDigits_congr h]

end

/-- Commands with the same effect do the same. -/
theorem exec_congr {i j : Instr} (h : ∀ s, effectOf i s = effectOf j s) (s : State) : exec i s = exec j s := by
  rw [exec_eq_takeCommand, exec_eq_takeCommand, funext h]

/-- Settles O5: `CHKD` reads twelve cells, a candidate of the wrong length is malformed whatever its cells, and a reserved word raises
without reading its operand. -/
theorem ignoredCellsChangeNothing : Obligations.IgnoredCellsChangeNothing := by
  intro s len ch ch'
  refine ⟨fun h => ?_, fun hlen => ?_, fun hlen => ?_, fun op op' len' => rfl⟩
  · exact exec_congr (i := .chkd len ch) (j := .chkd len ch') (chkdEffect_congr h e13 len) s
  · have hbad (x : Cells) : ¬ Candidate 12 len x := fun hc => hlen hc.1
    exact exec_congr (fun t => by simp only [effectOf, chkdEffect_of_malformed t (hbad _)]) s
  · have hbad (x : Cells) : ¬ Candidate 13 len x := fun hc => hlen hc.1
    exact ⟨exec_congr (fun t => by simp only [effectOf, verifyEffect_of_malformed t (hbad _)]) s,
      exec_congr (fun t => by simp only [effectOf, verifyqEffect_of_malformed t (hbad _)]) s,
      exec_congr (fun t => by simp only [effectOf, encodeEffect_of_malformed t (hbad _)]) s⟩

end Sys2Proof.Machine
end

section
/-! SUPPORT. The checksum of E13 in the words of Safety.lean (40_checksum.md R82, R83), and the strings a host assembles as operands
(30_encoding.md R66, R69). -/

namespace Sys2Proof.Machine

section
variable {n : Nat} {len : Len} {ch : Cells}

/-- The first twelve digits of a candidate of at least twelve cells are those of its cells. -/
theorem prefixDigits_toNat_of_candidate (h : Candidate n len ch) (hn : 12 ≤ n) (i : Nat) (hi : i < 12) :
    (prefixDigits e13 ch)[i].toNat = digitValue ch[i] := by
  have hd : isdigit e13 ch[i] = true :=
    ((wellformed_iff e13 n len ch).mp (wellformed_e13_iff.mpr h)).2 ⟨i, by omega⟩ (by simp; omega)
  rw [prefixDigits_getElem, digit_toNat e13 _ hd]
  rfl

/-- The sum of the checksum engine is the one 40_checksum.md R82 writes out. -/
theorem wsum_of_candidate (h : Candidate n len ch) (hn : 12 ≤ n) : wsum e13 (prefixDigits e13 ch) = stdSum ch := by
  simp only [wsum, prefixDigits_toNat_of_candidate h hn, e13_w, wStd, stdSum]
  simp
  omega

theorem checkdigit_of_candidate (h : Candidate n len ch) (hn : 12 ≤ n) :
    (checkdigit e13 (prefixDigits e13 ch)).toNat = stdCheck ch := by
  rw [checkdigit_toNat, wsum_of_candidate h hn, stdCheck]

/-- `verify13` of a well-formed candidate (40_checksum.md R85). -/
theorem verify13_of_candidate (h : Candidate 13 len ch) :
    verify13 e13 (digits e13 ch) = true ↔ stdCheck ch = digitValue ch[12] := by
  have hlast : (digits e13 ch)[12].toNat = digitValue ch[12] := digits_toNat_of_candidate h 12
  rw [verify13, beq_iff_eq, ← BitVec.toNat_inj, hlast, ← checkdigit_of_candidate h (by decide)]
  rfl

end

section
variable (str : List CharCell)

@[simp] theorem assembleLen_toNat : (assembleLen str).toNat = min str.length 31 := by
  rw [assembleLen, BitVec.toNat_ofNat]
  omega

@[simp] theorem assembleCells_getElem (i : Nat) (h : i < 13) : (assembleCells str)[i] = str.getD i 0#8 := by
  simp [assembleCells]

end

/-- A string is a candidate of `n` characters when it has that many, and all are digit characters (30_encoding.md R66). -/
theorem candidate_assemble_iff {n : Nat} (hn : n ≤ 13) (str : List CharCell) :
    Candidate n (assembleLen str) (assembleCells str) ↔
      str.length = n ∧ ∀ x ∈ str, 0x30 ≤ x.toNat ∧ x.toNat ≤ 0x39 := by
  have hlen : (assembleLen str).toNat = n ↔ str.length = n := by
    rw [assembleLen_toNat]
    omega
  rw [Candidate, hlen]
  refine and_congr_right fun hstr => ?_
  subst hstr
  rw [List.forall_mem_iff_getElem]
  constructor
  · intro h i hi
    simpa [hi] using h ⟨i, by omega⟩ hi
  · intro h i hi
    simpa [hi] using h i hi

/-- A checksum-valid identifier is a well-formed candidate whose last digit is the check digit of the others. -/
theorem validIdentifier_iff (str : List CharCell) :
    ValidIdentifier str ↔ Candidate 13 (assembleLen str) (assembleCells str) ∧
      stdCheck (assembleCells str) = digitValue (assembleCells str)[12] := by
  rw [candidate_assemble_iff (by decide), and_assoc, assembleCells_getElem]

/-- What `VERIFYQ` writes of an assembled string: whether it is a checksum-valid identifier (40_checksum.md R88). -/
theorem verifyqEffect_assemble (str : List CharCell) (s : State) :
    verifyqEffect e13 (assembleLen str) (assembleCells str) s = writeRB (decide (ValidIdentifier str)) s := by
  have hverdict : (wellformed e13 13 (assembleLen str) (assembleCells str) && verify13 e13 (digits e13 (assembleCells str)))
      = decide (ValidIdentifier str) := by
    rw [Bool.eq_iff_iff, Bool.and_eq_true, wellformed_e13_iff, decide_eq_true_iff, validIdentifier_iff]
    exact and_congr_right verify13_of_candidate
  rw [verifyqEffect, hverdict]

end Sys2Proof.Machine
end

section
/-! SUPPORT. `PIPE`, `MKID` and `CHKV` of 30_encoding.md R71: what each host step does to a run, the commands on assembled strings, and
where the runs end. -/

namespace Sys2Proof.Machine

section
variable {h : HostRun} (rest : List HostStep) (hs : h.stopped = false) (hp : h.passOver = 0)
include hs hp

theorem HostRun.exec_present {w : CommandWord} {t : State} (hl : h.engine.live = true)
    (he : Machine.exec (decode w) h.engine = .next t) :
    HostRun.exec (.present w :: rest) h = HostRun.exec rest { h with engine := t } :=
  HostRun.exec_step rest hs hp (HostRun.act_present hl he)

theorem HostRun.exec_read (r : HostReg) : HostRun.exec (.read r :: rest) h = HostRun.exec rest (h.noted r) :=
  HostRun.exec_step rest hs hp rfl

theorem HostRun.exec_compare (c : HostCond) :
    HostRun.exec (.compare c :: rest) h = HostRun.exec rest { h.noted c.reg with stopped := !h.test c } :=
  HostRun.exec_step rest hs hp rfl

/-- A command presented and one register read after it. -/
theorem HostRun.exec_present_read {w : CommandWord} {t : State} (r : HostReg) (hl : h.engine.live = true)
    (he : Machine.exec (decode w) h.engine = .next t) :
    HostRun.exec [.present w, .read r] h =
      .next { h with engine := t, log := h.log ++ [(r, hostRead h.log.length r t)] } :=
  (HostRun.exec_present [.read r] hs hp hl he).trans (HostRun.exec_read (h := { h with engine := t }) [] hs hp r)

end

section
variable {s : State} (hrun : s.st.halt = false) (str : List CharCell)
include hrun

/-- An assembled command on a running engine. -/
theorem exec_assemble {mk : Len → Cells → Instr} (hwf : (mk (assembleLen str) (assembleCells str)).wf = true) :
    exec (decode (assemble mk str)) s = .next (effectOf (mk (assembleLen str) (assembleCells str)) (beginCommand s)) := by
  rw [assemble, decode_encode hwf, exec_running_next_iff hrun]

theorem exec_assemble_verifyq :
    exec (decode (assemble .verifyq str)) s = .next (writeRB (decide (ValidIdentifier str)) (beginCommand s)) := by
  rw [exec_assemble hrun str rfl, effectOf, verifyqEffect_assemble]

end

/-- The run of `PIPE` and of `CHKV` after the verdict `v`: the host has read `RB`, and has stopped unless it was 1. -/
def verdictRun (v : Bool) (s : State) : HostRun :=
  { engine := writeRB v (beginCommand s), log := [(.rb, v.toNat)], passOver := 0, stopped := !v }

section
variable {s : State} (hl : s.live = true) (hrun : s.st.halt = false) {str : List CharCell} (rest : List HostStep)
include hl hrun

/-- `VERIFYQ` and the comparison `RB == 1`, with which `PIPE` and `CHKV` begin. -/
theorem runHost_verdict :
    runHost (.present (assemble .verifyq str) :: .compare .valid :: rest) s =
      HostRun.exec rest (verdictRun (decide (ValidIdentifier str)) s) := by
  rw [runHost, HostRun.exec_present _ rfl rfl hl (exec_assemble_verifyq hrun str), HostRun.exec_compare _ rfl rfl]
  cases decide (ValidIdentifier str) <;> rfl

/-- The host goes on after a checksum-valid identifier. -/
theorem runHost_verdict_of_valid (hv : ValidIdentifier str) :
    runHost (.present (assemble .verifyq str) :: .compare .valid :: rest) s = HostRun.exec rest (verdictRun true s) := by
  rw [runHost_verdict hl hrun, decide_eq_true hv]

/-- The host stops at the verdict on any other string. -/
theorem runHost_verdict_of_not_valid (hv : ¬ ValidIdentifier str) :
    runHost (.present (assemble .verifyq str) :: .compare .valid :: rest) s = .next (verdictRun false s) := by
  rw [runHost_verdict hl hrun, decide_eq_false hv]
  exact HostRun.exec_stopped rest rfl

end

/-- The byte read after `VERIFYQ` (10_state.md R29). -/
theorem readST_verdictRun {s : State} (hrun : s.st.halt = false) (v : Bool) : readST (verdictRun v s).engine = 0x01#8 := by
  rw [readST, verdictRun, writeRB_st, beginCommand_st_of_running hrun]
  rfl

/-- The byte read after a symbol is written (10_state.md R29). -/
theorem readST_writeSYM_of_running {s : State} (hrun : s.st.halt = false) (y : Symbol) :
    readST (writeSYM y (beginCommand s)) = 0x04#8 := by
  rw [readST, writeSYM_st, beginCommand_st_of_running hrun]
  rfl

/-- Thirteen digits that the cells of a candidate stand for are the digits of its operand. -/
theorem eq_digits_of_candidate {len : Len} {ch : Cells} (hc : Candidate 13 len ch) {d : Vector Digit 13}
    (hd : ∀ i : Fin 13, d[i].toNat = digitValue ch[i]) : d = digits e13 ch := by
  ext1 i hi
  exact BitVec.eq_of_toNat_eq ((hd ⟨i, hi⟩).trans (digits_toNat_of_candidate hc ⟨i, hi⟩).symm)

/-- Settles O48: at the verdict the host stops, or the string is a well-formed candidate and `ENCODE` writes the symbol of its digits. -/
theorem pipeEncodesExactlyValidIdentifiers : Obligations.PipeEncodesExactlyValidIdentifiers := by
  intro str s hl hrun
  by_cases hv : ValidIdentifier str
  · have hc := ((validIdentifier_iff str).mp hv).1
    obtain ⟨y, hy⟩ := encode13_of_candidate hc
    have hrun' : (verdictRun true s).engine.st.halt = false := hrun
    have he := exec_assemble (mk := .encode) hrun' str rfl
    rw [effectOf, encodeEffect_of_candidate _ hc hy] at he
    refine ⟨_, (runHost_verdict_of_valid hl hrun _ hv).trans (HostRun.exec_present [] rfl rfl hl he),
      fun _ => ⟨rfl, readST_writeSYM_of_running hrun' y, fun d hd => ?_⟩, absurd hv⟩
    have hdigits : d = digits e13 (assembleCells str) :=
      eq_digits_of_candidate hc fun i => by rw [hd i, Fin.getElem_fin, assembleCells_getElem]
    rw [hdigits, hy, writeSYM_sym]
  · exact ⟨_, runHost_verdict_of_not_valid hl hrun _ hv, fun h => absurd h hv, fun _ => ⟨rfl, readST_verdictRun hrun false⟩⟩

/-- Settles O50: at the verdict the host stops, or `VERIFY` computes the check digit, which is the string's last. -/
theorem chkvReadsCheckDigitOfValidIdentifiers : Obligations.ChkvReadsCheckDigitOfValidIdentifiers := by
  intro str s hl hrun
  by_cases hv : ValidIdentifier str
  · obtain ⟨hc, hcheck⟩ := (validIdentifier_iff str).mp hv
    have hrun' : (verdictRun true s).engine.st.halt = false := hrun
    have he := exec_assemble (mk := .verify) hrun' str rfl
    rw [effectOf, verifyEffect_of_candidate _ hc] at he
    refine ⟨_, (runHost_verdict_of_valid hl hrun _ hv).trans (HostRun.exec_present_read rfl rfl .rd hl he),
      fun _ => ⟨rfl, ?_⟩, absurd hv⟩
    have hdigit : (checkdigit e13 (prefixDigits e13 (assembleCells str))).toNat = digitValue (str.getD 12 0#8) := by
      rw [checkdigit_of_candidate hc (by decide), hcheck, assembleCells_getElem]
    simp [verdictRun, hostRead, readRD, hdigit]
  · exact ⟨_, runHost_verdict_of_not_valid hl hrun _ hv, fun h => absurd h hv, fun _ => ⟨rfl, rfl⟩⟩

/-- The character code of a digit reads back as that digit (30_encoding.md R65). -/
theorem digitChar_toNat {v : Nat} (hv : v ≤ 9) : (e13.zeroCode + BitVec.ofNat 8 v).toNat = 0x30 + v := by
  rw [e13_zeroCode, BitVec.toNat_add, BitVec.toNat_ofNat, BitVec.toNat_ofNat]
  omega

/-- The weighted sum reads no cell but the first twelve (40_checksum.md R82). -/
theorem stdCheck_append {pre : List CharCell} (hlen : pre.length = 12) (x : CharCell) :
    stdCheck (assembleCells (pre ++ [x])) = stdCheck (assembleCells pre) := by
  have hcell (i : Nat) (hi : i < 12) : (pre ++ [x]).getD i 0#8 = pre.getD i 0#8 :=
    List.getD_append pre [x] 0#8 i (by omega)
  simp only [stdCheck, stdSum, assembleCells_getElem, hcell, Nat.reduceLT]

/-- Twelve digit characters and their check digit are a checksum-valid identifier (40_checksum.md R90). -/
theorem validIdentifier_mkid {pre : List CharCell} (hlen : pre.length = 12)
    (hpre : ∀ x ∈ pre, 0x30 ≤ x.toNat ∧ x.toNat ≤ 0x39) :
    ValidIdentifier (mkidIdentifier pre (stdCheck (assembleCells pre))) := by
  have hle : stdCheck (assembleCells pre) ≤ 9 := by
    rw [stdCheck]
    omega
  have hlast := digitChar_toNat hle
  refine ⟨by simp [mkidIdentifier, hlen], fun x hx => ?_, ?_⟩
  · obtain hx | rfl := List.mem_append.mp hx |>.imp_right List.mem_singleton.mp
    · exact hpre x hx
    · omega
  · rw [mkidIdentifier, stdCheck_append hlen, ← hlen, List.getD_append_right _ _ _ _ le_rfl, Nat.sub_self, List.getD_cons_zero,
      digitValue, hlast, Nat.add_sub_cancel_left]

/-- Settles O49: `CHKD` gives the check digit of the twelve characters, which completes them, so that `VERIFYQ` accepts the whole. -/
theorem mkidMakesValidIdentifiers : Obligations.MkidMakesValidIdentifiers := by
  intro pre s s' hl hrun hl' hrun' hlen hpre
  have hc : Candidate 12 (assembleLen pre) (assembleCells pre) := (candidate_assemble_iff (by decide) pre).mpr ⟨hlen, hpre⟩
  have hdigit := checkdigit_of_candidate hc le_rfl
  have hvalid := validIdentifier_mkid hlen hpre
  have he := exec_assemble (mk := .chkd) hrun pre rfl
  rw [effectOf, chkdEffect_of_candidate _ hc] at he
  have he' := exec_assemble_verifyq hrun' (mkidIdentifier pre (stdCheck (assembleCells pre)))
  rw [decide_eq_true hvalid] at he'
  refine ⟨_, stdCheck (assembleCells pre), HostRun.exec_present_read rfl rfl .rd hl he, ?_, ?_, hvalid, _,
    HostRun.exec_present_read rfl rfl .rb hl' he', rfl⟩
  · simp [hostRead, readRD, hdigit]
  · exact hdigit ▸ checkdigit_le_nine _ _

end Sys2Proof.Machine
end

section
/-! SUPPORT. The weighted sum as a sum over the twelve positions, and what it does when digits change (40_checksum.md R82, R91); the
check digit and the verdict as statements about that sum modulo 10 (R83, R85). -/

namespace Sys2Proof.Machine

/-- The check digits agree exactly when the sums do modulo 10. -/
theorem checkdigit_eq_iff (c : Config) (d d' : Vector Digit 12) :
    checkdigit c d = checkdigit c d' ↔ wsum c d % 10 = wsum c d' % 10 := by
  rw [← BitVec.toNat_inj, checkdigit_toNat, checkdigit_toNat]
  omega

/-- Settles O33, by cases on the last digit of the sum. -/
theorem checkDigitIsTheCompletingDigit : Obligations.CheckDigitIsTheCompletingDigit := by
  intro c d
  refine ⟨checkdigit_toNat c d, checkdigit_le_nine c d, fun x hx => ?_⟩
  rw [checkdigit_toNat]
  omega

/-- Settles O34: `p` is the prefix that `verify13` takes of `d`. -/
theorem verificationIsDivisibility : Obligations.VerificationIsDivisibility := by
  intro c d p hp hlast
  have hpop : p = d.pop := by
    ext1 i hi
    rw [Vector.getElem_pop]
    exact hp ⟨i, hi⟩
  subst hpop
  exact ⟨beq_iff_eq, verify13_iff c d hlast⟩

/-- "Sum = Σ(digit[i] × weight[i])" (40_checksum.md R82). -/
theorem wsum_eq_sum (c : Config) (d : Vector Digit 12) : wsum c d = ∑ i : Fin 12, d[i].toNat * c.w[i] := by
  simp [wsum, Fin.sum_univ_succ, add_assoc]

@[simp] theorem e13Doc_w : e13Doc.w = wDoc := rfl

theorem wsum_le (c : Config) {d : Vector Digit 12} (h : ∀ i : Fin 12, d[i].toNat ≤ 9) :
    wsum c d ≤ ∑ i : Fin 12, 9 * c.w[i] := by
  rw [wsum_eq_sum]
  exact Finset.sum_le_sum fun i _ => Nat.mul_le_mul_right _ (h i)

/-- Settles O32: the weights of each configuration, and 9 as the largest digit at every position. -/
theorem weightedSumWrittenOut : Obligations.WeightedSumWrittenOut := by
  intro d
  refine ⟨?_, ?_, fun h => ⟨wsum_le e13 h, wsum_le e13Doc h⟩⟩
  · simp [wsum, wStd]
    omega
  · simp [wsum, wDoc]
    omega

/-- Settles O38: every term of the sum is 0. -/
theorem allZerosVerifies : Obligations.AllZerosVerifies := by
  intro c d h
  have hlast : d[12] = 0#4 := h 12
  have hsum : wsum c d.pop = 0 := by
    rw [wsum_eq_sum]
    refine Finset.sum_eq_zero fun i _ => ?_
    have hi : d.pop[i] = 0#4 := (Vector.getElem_pop _).trans (h i.castSucc)
    simp [hi]
  rw [verify13_iff c d (by simp [hlast]), hsum, hlast]
  rfl

/-- Another digit at one position changes the sum by that position's term alone. -/
theorem wsum_set (c : Config) (d : Vector Digit 12) (i : Nat) (hi : i < 12) (v : Digit) :
    wsum c (d.set i v) + d[i].toNat * c.w[i] = wsum c d + v.toNat * c.w[i] := by
  have hrest : ∑ j ∈ Finset.univ.erase (⟨i, hi⟩ : Fin 12), (d.set i v)[j].toNat * c.w[j] =
      ∑ j ∈ Finset.univ.erase (⟨i, hi⟩ : Fin 12), d[j].toNat * c.w[j] := by
    refine Finset.sum_congr rfl fun j hj => ?_
    have hne : i ≠ j := fun h => Finset.ne_of_mem_erase hj (Fin.ext h.symm)
    rw [Fin.getElem_fin, Vector.getElem_set_ne _ _ hne]
    rfl
  rw [wsum_eq_sum, wsum_eq_sum, ← Finset.add_sum_erase _ _ (Finset.mem_univ (⟨i, hi⟩ : Fin 12)), hrest,
    ← Finset.add_sum_erase _ _ (Finset.mem_univ (⟨i, hi⟩ : Fin 12))]
  simp only [Fin.getElem_fin, Vector.getElem_set_self]
  omega

/-- 1 and 3 are coprime to 10, so a changed digit changes the sum modulo 10. -/
theorem checkdigit_set_ne {c : Config} {d : Vector Digit 12} {i : Nat} (hi : i < 12) {v : Digit} (hw : c.w[i] = 1 ∨ c.w[i] = 3)
    (hd : d[i].toNat ≤ 9) (hv : v.toNat ≤ 9) (hne : v ≠ d[i]) : checkdigit c (d.set i v) ≠ checkdigit c d := by
  have hsum := wsum_set c d i hi v
  have hne' : v.toNat ≠ d[i].toNat := mt BitVec.eq_of_toNat_eq hne
  rw [ne_eq, checkdigit_eq_iff]
  obtain hw | hw := hw
  · rw [hw] at hsum; omega
  · rw [hw] at hsum; omega

/-- The exchange of neighbours under weights 1 and 3 changes the sum by twice their difference. -/
theorem checkdigit_swap_eq_iff {c : Config} {d : Vector Digit 12} {i : Nat} (hi : i + 1 < 12)
    (hw : (c.w[i] = 1 ∧ c.w[i + 1] = 3) ∨ (c.w[i] = 3 ∧ c.w[i + 1] = 1))
    (hd : d[i].toNat ≤ 9) (hd' : d[i + 1].toNat ≤ 9) (hne : d[i] ≠ d[i + 1]) :
    checkdigit c ((d.set i d[i + 1]).set (i + 1) d[i]) = checkdigit c d ↔
      d[i].toNat + 5 = d[i + 1].toNat ∨ d[i + 1].toNat + 5 = d[i].toNat := by
  have hfirst := wsum_set c d i (by omega) d[i + 1]
  have hsecond := wsum_set c (d.set i d[i + 1]) (i + 1) hi d[i]
  have hne' : d[i].toNat ≠ d[i + 1].toNat := mt BitVec.eq_of_toNat_eq hne
  rw [Vector.getElem_set_ne _ _ (Nat.ne_add_one i)] at hsecond
  rw [checkdigit_eq_iff]
  obtain ⟨hw, hw'⟩ | ⟨hw, hw'⟩ := hw
  · rw [hw] at hfirst; rw [hw'] at hsecond; omega
  · rw [hw] at hfirst; rw [hw'] at hsecond; omega

/-- The weights of `W_STD` and `W_DOC` alternate (40_checksum.md R81). -/
theorem weights_alternate {c : Config} (hc : c = e13 ∨ c = e13Doc) (i : Fin 11) :
    (c.w[i.val] = 1 ∧ c.w[i.val + 1] = 3) ∨ (c.w[i.val] = 3 ∧ c.w[i.val + 1] = 1) := by
  obtain rfl | rfl := hc
  · revert i; decide
  · revert i; decide

/-- Settles O36, by what one changed digit and what two exchanged neighbours do to the sum. -/
theorem tamperingDetected : Obligations.TamperingDetected := by
  intro c d hd
  constructor
  · intro hw i v hv hne
    exact checkdigit_set_ne i.isLt (hw i) (hd i) hv hne
  · intro hc i hi hne
    exact checkdigit_swap_eq_iff hi (weights_alternate hc ⟨i, by omega⟩) (hd ⟨i, by omega⟩) (hd ⟨i + 1, hi⟩) hne

end Sys2Proof.Machine
end

section
/-! SUPPORT. The checksum commands on E13: their effects in the words of Safety.lean (40_checksum.md R86 to R88), and the registers
each leaves alone (R94). -/

namespace Sys2Proof.Machine

section
variable {len : Len} {ch : Cells} (s : State)

/-- The digit the engine computes is the one 40_checksum.md R83 gives for the cells. -/
theorem checkdigit_eq_stdCheck {n : Nat} (h : Candidate n len ch) (hn : 12 ≤ n) :
    checkdigit e13 (prefixDigits e13 ch) = BitVec.ofNat 4 (stdCheck ch) := by
  rw [checkdigit, wsum_of_candidate h hn, stdCheck]

/-- What a well-formed `CHKD` writes. -/
theorem chkdEffect_eq_writeRD (h : Candidate 12 len ch) :
    chkdEffect e13 len ch s = writeRD (BitVec.ofNat 4 (stdCheck ch)) s := by
  rw [chkdEffect_of_candidate s h, checkdigit_eq_stdCheck h le_rfl]

/-- What a well-formed `VERIFY` writes. -/
theorem verifyEffect_eq_writeRB_writeRD (h : Candidate 13 len ch) :
    verifyEffect e13 len ch s =
      writeRB (decide (stdCheck ch = digitValue ch[12])) (writeRD (BitVec.ofNat 4 (stdCheck ch)) s) := by
  have hverdict : (checkdigit e13 (prefixDigits e13 ch) == (digits e13 ch)[12]) = decide (stdCheck ch = digitValue ch[12]) := by
    rw [Bool.eq_iff_iff, decide_eq_true_iff]
    exact verify13_of_candidate h
  rw [verifyEffect_of_candidate s h, hverdict, checkdigit_eq_stdCheck h (by decide)]

/-- What `VERIFYQ` writes of any operand. -/
theorem verifyqEffect_eq_writeRB :
    verifyqEffect e13 len ch s = writeRB (decide (Candidate 13 len ch ∧ stdCheck ch = digitValue ch[12])) s := by
  have hverdict : (wellformed e13 13 len ch && verify13 e13 (digits e13 ch)) =
      decide (Candidate 13 len ch ∧ stdCheck ch = digitValue ch[12]) := by
    rw [Bool.eq_iff_iff, Bool.and_eq_true, wellformed_e13_iff, decide_eq_true_iff]
    exact and_congr_right verify13_of_candidate
  rw [verifyqEffect, hverdict]

end

/-- What a running engine answers to a command (10_state.md R28). -/
theorem exec_running (i : Instr) {s : State} (h : s.st.halt = false) :
    exec i s = .next (effectOf i (beginCommand s)) :=
  (exec_running_next_iff h).mpr rfl

/-- Settles O7, from the two outcomes of the effect on `ST = 0`. -/
theorem chkdWritesCheckDigitOrRaises : Obligations.ChkdWritesCheckDigitOrRaises := by
  intro len ch s hrun
  have he := exec_running (.chkd len ch) hrun
  have hst := beginCommand_st_of_running hrun
  constructor
  · intro hc
    rw [effectOf, chkdEffect_eq_writeRD _ hc] at he
    exact ⟨_, he, rfl, by rw [writeRD_st, hst]; rfl⟩
  · intro hc
    rw [effectOf, chkdEffect_of_malformed _ hc] at he
    exact ⟨_, he, rfl, rfl, rfl, by rw [raise_st, hst]; rfl⟩

/-- Settles O8, from the two outcomes of the effect on `ST = 0`. -/
theorem verifyWritesVerdictAndDigitOrRaises : Obligations.VerifyWritesVerdictAndDigitOrRaises := by
  intro len ch s hrun
  have he := exec_running (.verify len ch) hrun
  have hst := beginCommand_st_of_running hrun
  constructor
  · intro hc
    rw [effectOf, verifyEffect_eq_writeRB_writeRD _ hc] at he
    exact ⟨_, he, rfl, rfl, by rw [writeRB_st, writeRD_st, hst]; rfl⟩
  · intro hc
    rw [effectOf, verifyEffect_of_malformed _ hc] at he
    exact ⟨_, he, rfl, rfl, rfl, by rw [raise_st, hst]; rfl⟩

/-- Settles O9: the one write of `VERIFYQ`, on `ST = 0`. -/
theorem verifyqWritesVerdictAlways : Obligations.VerifyqWritesVerdictAlways := by
  intro len ch s hrun
  have he := exec_running (.verifyq len ch) hrun
  rw [effectOf, verifyqEffect_eq_writeRB] at he
  exact ⟨_, he, rfl, by rw [writeRB_st, beginCommand_st_of_running hrun]; rfl⟩

/-- Settles O37: on a well-formed candidate the two verdicts are the same, and a malformed one is false or an exception. -/
theorem verifyqFoldsVerify : Obligations.VerifyqFoldsVerify := by
  intro len ch s₁ s₂ t₁ t₂ h₁ h₂ he₁ he₂
  rw [exec_running_next_iff h₁] at he₁
  rw [exec_running_next_iff h₂] at he₂
  subst he₁ he₂
  simp only [effectOf, verifyqEffect_eq_writeRB, writeRB_rb, decide_eq_true_iff]
  by_cases hc : Candidate 13 len ch
  · rw [verifyEffect_eq_writeRB_writeRD _ hc, and_iff_right hc]
    simp
  · simp [verifyEffect_of_malformed _ hc, hc]

/-- What neither `begin_command` nor the command's effect changes, the command leaves unchanged, on a halted engine too. -/
theorem exec_keeps {α : Type} (f : State → α) {i : Instr} {s t : State} (h : exec i s = .next t)
    (hbegin : f (beginCommand s) = f s) (heffect : f (effectOf i (beginCommand s)) = f (beginCommand s)) : f t = f s := by
  obtain ⟨_, rfl⟩ | ⟨_, rfl⟩ := exec_next_iff.mp h
  · rfl
  · exact heffect.trans hbegin

section
variable (len : Len) (ch : Cells) (s : State)

@[simp] theorem chkdEffect_rb (c : Config) : (chkdEffect c len ch s).rb = s.rb := by
  unfold chkdEffect
  split <;> rfl

@[simp] theorem verifyqEffect_rd (c : Config) : (verifyqEffect c len ch s).rd = s.rd := rfl

/-- FormatError is not fatal (60_exceptions.md R141). -/
@[simp] theorem verifyEffect_halt (c : Config) : (verifyEffect c len ch s).st.halt = s.st.halt := by
  unfold verifyEffect
  split
  · rfl
  · exact Bool.or_false _

end

/-- Settles O12, register by register. -/
theorem checksumCommandsFrame : Obligations.ChecksumCommandsFrame := by
  intro len ch s t
  refine ⟨fun h => ?_, fun h => ?_, fun h => ?_⟩
  · refine ⟨exec_keeps State.rb h rfl (chkdEffect_rb ..), exec_keeps State.sym h rfl (chkdEffect_sym ..), exec_live h,
      exec_inputs h, fun hc => ?_, fun hc => ?_⟩
    · exact exec_keeps (fun u => u.st.halt) h rfl (by rw [effectOf, chkdEffect_eq_writeRD _ hc, writeRD_st])
    · exact exec_keeps State.rd h rfl (by rw [effectOf, chkdEffect_of_malformed _ hc, raise_rd])
  · refine ⟨exec_keeps State.sym h rfl (verifyEffect_sym ..), exec_live h, exec_inputs h,
      exec_keeps (fun u => u.st.halt) h rfl (verifyEffect_halt ..), fun hc => ⟨?_, ?_⟩⟩
    · exact exec_keeps State.rb h rfl (by rw [effectOf, verifyEffect_of_malformed _ hc, raise_rb])
    · exact exec_keeps State.rd h rfl (by rw [effectOf, verifyEffect_of_malformed _ hc, raise_rd])
  · exact ⟨exec_keeps State.rd h rfl (verifyqEffect_rd ..), exec_keeps State.sym h rfl (verifyqEffect_sym ..), exec_live h,
      exec_inputs h, exec_keeps (fun u => u.st.halt) h rfl rfl⟩

end Sys2Proof.Machine
end

section
/-! SUPPORT. A prefix and its check digit together are an identifier that verifies, under every configuration whose digit characters
do not run past the 8-bit codes (40_checksum.md R90). -/

namespace Sys2Proof.Machine

/-- The character of a digit stands for that digit (30_encoding.md R65). -/
theorem digit_zeroCode_add (c : Config) (d : Digit) : digit c (c.zeroCode + d.setWidth 8) = d := by
  rw [digit, add_sub_cancel_left, BitVec.setWidth_setWidth_of_le _ (by decide), BitVec.setWidth_eq]

theorem isdigit_zeroCode_add {c : Config} (hz : c.zeroCode.toNat + 9 < 256) {d : Digit} (hd : d.toNat ≤ 9) :
    isdigit c (c.zeroCode + d.setWidth 8) = true := by
  rw [isdigit_iff, BitVec.toNat_add, BitVec.toNat_setWidth]
  omega

/-- A digit character in the thirteenth cell makes a prefix of twelve a well-formed candidate. -/
theorem wellformed_set_last {c : Config} {ch : Cells} (hch : wellformed c 12 12#5 ch = true) {x : CharCell}
    (hx : isdigit c x = true) :
    wellformed c 13 13#5 (ch.set 12 x) = true := by
  obtain ⟨_, hcells⟩ := (wellformed_iff ..).mp hch
  refine (wellformed_iff ..).mpr ⟨rfl, fun i hi => ?_⟩
  by_cases hlast : i.val = 12
  · simpa [hlast] using hx
  · have hne : 12 ≠ i.val := fun h => hlast h.symm
    rw [Fin.getElem_fin, Vector.getElem_set_ne _ _ hne]
    exact hcells i (by omega)

/-- The check digit's own character in the thirteenth cell verifies, whatever the prefix. -/
theorem verify13_set_checkdigit (c : Config) (ch : Cells) :
    verify13 c (digits c (ch.set 12 (c.zeroCode + (checkdigit c (prefixDigits c ch)).setWidth 8))) = true := by
  have hprefix := prefixDigits_congr (ch := ch.set 12 (c.zeroCode + (checkdigit c (prefixDigits c ch)).setWidth 8)) (ch' := ch)
    (fun i hi => Vector.getElem_set_ne _ _ (Nat.ne_of_gt hi)) c
  rw [verify13, ← prefixDigits, hprefix, beq_iff_eq, digits_getElem, Vector.getElem_set_self, digit_zeroCode_add]

/-- Settles O35: the weights are the same on both sides, and the character code is E13's. -/
theorem checkDigitRoundTrip : Obligations.CheckDigitRoundTrip := by
  intro w ch s s' t hs hs' hc ht
  have hwf : wellformed { e13 with w := w } 12 12#5 ch = true := wellformed_e13_iff.mpr hc
  have hz : e13.zeroCode.toNat + 9 < 256 := by decide
  obtain rfl : chkdEffect { e13 with w := w } 12#5 ch (beginCommand s) = t := by
    simpa [takeCommand_running _ hs] using ht
  refine ⟨_, takeCommand_running _ hs', rfl, ?_⟩
  rw [chkdEffect, if_pos hwf, writeRD_rd, verifyqEffect, writeRB_rb, Bool.and_eq_true]
  exact ⟨wellformed_set_last hwf (isdigit_zeroCode_add hz (checkdigit_le_nine _ _)),
    verify13_set_checkdigit { e13 with w := w } ch⟩

end Sys2Proof.Machine
end

section
/-! SUPPORT. The lookups and the tables of the encoder (41_lut_parity.md). `REVEN` is `LODD` complemented and `LEVEN` is `REVEN` reversed
(R110 (d), (e)), so what R110 says of the ends, the `1` modules and the runs of a code is checked on `LODD` and carried to the others. -/

namespace Sys2Proof.Machine

/-- Settles O40: each lookup is one read of a ROM of ten words. -/
theorem lookupDomain : Obligations.LookupDomain := by
  intro c d
  refine ⟨fun h => ⟨?_, ?_, ?_, ?_⟩, fun h => ⟨?_, ?_, fun p => ?_⟩⟩
  · exact memRead_inRange c.par d h
  · exact memRead_inRange c.lodd d h
  · exact memRead_inRange c.leven d h
  · exact memRead_inRange c.reven d h
  · exact memRead_outOfRange c.par d h
  · exact memRead_outOfRange c.reven d h
  · rw [leftcode_eq, memRead_outOfRange _ d h]

/-- Settles O41: the module strings of R101 to R105 and the packed words are the same numbers. -/
theorem romContents : Obligations.RomContents := by
  unfold Obligations.RomContents
  rw [e13_lodd, e13_leven, e13_reven, e13_par]
  exact ⟨rfl, rfl, rfl, rfl⟩

/-- The number of `1` modules of a code (41_lut_parity.md, section 2). -/
def ones (c : ModuleCode) : Nat := (List.range 7).countP (moduleAt c)

/-- The number of modules that differ from the next one: a code has one run more. -/
def edges (c : ModuleCode) : Nat := (List.range 6).countP (fun j => moduleAt c j != moduleAt c (j + 1))

/-- Counting from the other end counts the same. -/
theorem countP_range_reflect (p : Nat → Bool) (n : Nat) :
    (List.range n).countP (fun j => p (n - 1 - j)) = (List.range n).countP p := by
  have hrev : (List.range n).reverse = (List.range n).map (n - 1 - ·) := by
    rw [List.range_eq_range', List.reverse_range', List.range_eq_range', Nat.zero_add]
  rw [← List.countP_reverse (p := p), hrev, List.countP_map]
  rfl

section
variable (c : ModuleCode)

theorem moduleAt_not {j : Nat} (hj : j < 7) : moduleAt (~~~c) j = !moduleAt c j := by
  simp [moduleAt, hj]

theorem moduleAt_reverse {j : Nat} (hj : j < 7) : moduleAt c.reverse j = moduleAt c (6 - j) := by
  rw [moduleAt, BitVec.getMsbD_reverse, BitVec.getLsbD_eq_getMsbD, decide_eq_true hj, Bool.true_and, moduleAt]

theorem ones_not : ones (~~~c) = 7 - ones c := by
  have hnot : ones (~~~c) = (List.range 7).countP (fun j => !moduleAt c j) :=
    List.countP_congr fun j hj => by rw [moduleAt_not c (List.mem_range.mp hj)]
  have hall : 7 = ones c + (List.range 7).countP (fun j => !moduleAt c j) := by
    simpa [ones] using List.length_eq_countP_add_countP (moduleAt c) (l := List.range 7)
  omega

theorem ones_reverse : ones c.reverse = ones c := by
  rw [ones, ones, ← countP_range_reflect (moduleAt c)]
  exact List.countP_congr fun j hj => by rw [moduleAt_reverse c (List.mem_range.mp hj)]

theorem edges_not : edges (~~~c) = edges c :=
  List.countP_congr fun j hj => by
    have hj := List.mem_range.mp hj
    rw [moduleAt_not c (by omega), moduleAt_not c (by omega), Bool.not_bne_not]

theorem edges_reverse : edges c.reverse = edges c := by
  rw [edges, edges, ← countP_range_reflect (fun j => moduleAt c j != moduleAt c (j + 1))]
  refine List.countP_congr fun j hj => ?_
  have hj := List.mem_range.mp hj
  rw [moduleAt_reverse c (by omega), moduleAt_reverse c (by omega), bne_comm,
    show 6 - (j + 1) = 6 - 1 - j by omega, show 6 - j = 6 - 1 - j + 1 by omega]

end

/-! ### `LODD` by its cells, and the other two codes from it -/

theorem romLODD_ends : ∀ d : Fin 10, moduleAt romLODD[d] 0 = false ∧ moduleAt romLODD[d] 6 = true := by decide

theorem romLODD_ones : ∀ d : Fin 10, ones romLODD[d] ∈ [3, 5] := by decide

theorem romLODD_edges : ∀ d : Fin 10, edges romLODD[d] = 3 := by decide

theorem romREVEN_getElem : ∀ d : Fin 10, romREVEN[d] = ~~~romLODD[d] := by decide

theorem romLEVEN_getElem : ∀ d : Fin 10, romLEVEN[d] = romREVEN[d].reverse := by decide

theorem romREVEN_ends (d : Fin 10) : moduleAt romREVEN[d] 0 = true ∧ moduleAt romREVEN[d] 6 = false := by
  obtain ⟨hfirst, hlast⟩ := romLODD_ends d
  rw [romREVEN_getElem, moduleAt_not _ (by decide), moduleAt_not _ (by decide), hfirst, hlast]
  exact ⟨rfl, rfl⟩

theorem romLEVEN_ends (d : Fin 10) : moduleAt romLEVEN[d] 0 = false ∧ moduleAt romLEVEN[d] 6 = true := by
  rw [romLEVEN_getElem, moduleAt_reverse _ (by decide), moduleAt_reverse _ (by decide)]
  exact (romREVEN_ends d).symm

theorem romREVEN_ones (d : Fin 10) : ones romREVEN[d] ∈ [2, 4] := by
  have hodd := romLODD_ones d
  rw [romREVEN_getElem, ones_not]
  simp only [List.mem_cons, List.not_mem_nil, or_false] at hodd ⊢
  omega

theorem romLEVEN_ones (d : Fin 10) : ones romLEVEN[d] ∈ [2, 4] := by
  rw [romLEVEN_getElem, ones_reverse]
  exact romREVEN_ones d

theorem romREVEN_edges (d : Fin 10) : edges romREVEN[d] = 3 := by
  rw [romREVEN_getElem, edges_not, romLODD_edges]

theorem romLEVEN_edges (d : Fin 10) : edges romLEVEN[d] = 3 := by
  rw [romLEVEN_getElem, edges_reverse, romREVEN_edges]

/-- The codes of a ROM are its ten words. -/
theorem edges_of_mem {rom : Vector ModuleCode 10} (h : ∀ d : Fin 10, edges rom[d] = 3) : ∀ c ∈ rom.toList, edges c = 3 := by
  intro c hc
  obtain ⟨i, hi, rfl⟩ := Vector.getElem_of_mem (Vector.mem_toList_iff.mp hc)
  exact h ⟨i, hi⟩

theorem moduleCodes_edges (c : ModuleCode) (hc : c ∈ romLODD.toList ++ romLEVEN.toList ++ romREVEN.toList) : edges c = 3 := by
  rw [List.mem_append, List.mem_append] at hc
  obtain (hc | hc) | hc := hc
  · exact edges_of_mem romLODD_edges c hc
  · exact edges_of_mem romLEVEN_edges c hc
  · exact edges_of_mem romREVEN_edges c hc

theorem moduleCodes_nodup : (romLODD.toList ++ romLEVEN.toList ++ romREVEN.toList).Nodup := by decide

/-! ### The rows of `PAR` -/

theorem romPAR_nodup : romPAR.toList.Nodup := by decide

theorem romPAR_zero_odd : ∀ k : Fin 6, selector romPAR[0] k = .odd := by decide

theorem romPAR_first_odd : ∀ d : Fin 10, selector romPAR[d] 0 = .odd := by decide

theorem romPAR_three_odd : ∀ d : Fin 10, d ≠ 0 → (List.range 6).countP (fun k => selector romPAR[d] k == .odd) = 3 := by decide

/-- Settles O42, fact by fact in R110's order. -/
theorem romStructure : Obligations.RomStructure := by
  unfold Obligations.RomStructure
  rw [e13_lodd, e13_leven, e13_reven, e13_par]
  refine ⟨moduleCodes_nodup, fun d => ?_, fun d => ⟨romLODD_ones d, romLEVEN_ones d, romREVEN_ones d⟩, fun d j => ?_, fun d j => ?_,
    moduleCodes_edges, romPAR_nodup, romPAR_zero_odd, fun d => ⟨romPAR_first_odd d, romPAR_three_odd d⟩⟩
  · obtain ⟨hlodd0, hlodd6⟩ := romLODD_ends d
    obtain ⟨hleven0, hleven6⟩ := romLEVEN_ends d
    exact ⟨hlodd0, hlodd6, hleven0, hleven6, romREVEN_ends d⟩
  · rw [romREVEN_getElem, moduleAt_not _ j.isLt]
  · rw [romLEVEN_getElem, moduleAt_reverse _ j.isLt]

end Sys2Proof.Machine
end

section
/-! SUPPORT. `ENCODE` on E13: the symbol register or FormatError, and what it leaves alone (42_framer.md R125, R126). -/

namespace Sys2Proof.Machine

/-- Settles O10: a well-formed operand has one sequence of digits and that has a symbol; both outcomes start from `ST = 0`. -/
theorem encodeWritesSymbolOrRaises : Obligations.EncodeWritesSymbolOrRaises := by
  intro len ch s hrun
  have he := exec_running (.encode len ch) hrun
  have hst := beginCommand_st_of_running hrun
  constructor
  · intro hc d hd
    obtain ⟨y, hy⟩ := encode13_of_candidate hc
    rw [effectOf, encodeEffect_of_candidate _ hc hy] at he
    refine ⟨_, he, ?_, by rw [writeSYM_st, hst]; rfl⟩
    rw [eq_digits_of_candidate hc hd, hy, writeSYM_sym]
  · intro hc
    rw [effectOf, encodeEffect_of_malformed _ hc] at he
    exact ⟨_, he, rfl, rfl, rfl, by rw [raise_st, hst]; rfl⟩

section
variable (len : Len) (ch : Cells) (s : State)

/-- `ENCODE` writes neither `RB` nor `RD` (42_framer.md R125), whatever the lookups answer. -/
theorem encodeEffect_rb_and_rd (c : Config) :
    (encodeEffect c len ch s).rb = s.rb ∧ (encodeEffect c len ch s).rd = s.rd := by
  unfold encodeEffect
  split
  · cases encode13 c (digits c ch) with
    | ok y => exact ⟨rfl, rfl⟩
    | error e => exact ⟨rfl, rfl⟩
  · exact ⟨rfl, rfl⟩

/-- Under E13's tables the one exception of `ENCODE` is FormatError, which is not fatal (60_exceptions.md R141). -/
theorem encodeEffect_halt : (encodeEffect e13 len ch s).st.halt = s.st.halt := by
  rw [encodeEffect_st]
  split
  · rfl
  · exact Bool.or_false _

end

/-- Settles O13, register by register. -/
theorem encodeAndReservedFrame : Obligations.EncodeAndReservedFrame := by
  intro op len ch s t
  refine ⟨fun h => ?_, fun h => ?_⟩
  · obtain ⟨hrb, hrd⟩ := encodeEffect_rb_and_rd len ch (beginCommand s) e13
    exact ⟨exec_keeps State.rb h rfl hrb, exec_keeps State.rd h rfl hrd, exec_live h, exec_inputs h,
      exec_keeps (fun u => u.st.halt) h rfl (encodeEffect_halt ..),
      fun hc => exec_keeps State.sym h rfl (by rw [effectOf, encodeEffect_of_malformed _ hc, raise_sym])⟩
  · exact ⟨exec_keeps State.rb h rfl rfl, exec_keeps State.rd h rfl rfl, exec_keeps State.sym h rfl rfl, exec_live h,
      exec_inputs h⟩

end Sys2Proof.Machine
end

section
/-! SUPPORT. A framed symbol module by module (42_framer.md R123): each part of `frame` at its place, and what changes with the last
code alone. -/

namespace Sys2Proof.Machine

section
variable (c : Config) (lc rc : Vector ModuleCode 6)

theorem moduleAt_frame_start {j : Nat} (hj : j < 3) : moduleAt (frame c lc rc) j = moduleAt c.startGuard j := by
  obtain ⟨hstart, _, _⟩ := frame_guards c lc rc
  rw [← hstart, moduleAt_part _ _ _ _ (by decide) hj, Nat.zero_add]

theorem moduleAt_frame_center {j : Nat} (hj : j < 5) : moduleAt (frame c lc rc) (45 + j) = moduleAt c.centerGuard j := by
  obtain ⟨_, hcenter, _⟩ := frame_guards c lc rc
  rw [← hcenter, moduleAt_part _ _ _ _ (by decide) hj]

theorem moduleAt_frame_end {j : Nat} (hj : j < 3) : moduleAt (frame c lc rc) (92 + j) = moduleAt c.endGuard j := by
  obtain ⟨_, _, hend⟩ := frame_guards c lc rc
  rw [← hend, moduleAt_part _ _ _ _ (by decide) hj]

theorem moduleAt_frame_left {k j : Nat} (hk : k < 6) (hj : j < 7) :
    moduleAt (frame c lc rc) (3 + 7 * k + j) = moduleAt lc[k] j := by
  rw [← frame_leftCode c lc rc k hk, moduleAt_part _ _ _ _ (by omega) hj]
  congr 1
  omega

theorem moduleAt_frame_right {k j : Nat} (hk : k < 6) (hj : j < 7) :
    moduleAt (frame c lc rc) (50 + 7 * k + j) = moduleAt rc[k] j := by
  rw [← frame_rightCode c lc rc k hk, moduleAt_part _ _ _ _ (by omega) hj]
  congr 1
  omega

/-- The last right code stands in modules 85 to 91, so no module before 85 depends on it. -/
theorem moduleAt_frame_set_last (code : ModuleCode) {m : Nat} (hm : m < 85) :
    moduleAt (frame c lc (rc.set 5 code)) m = moduleAt (frame c lc rc) m := by
  have hparts : (frame c lc (rc.set 5 code)).extractLsb' 10 85 = (frame c lc rc).extractLsb' 10 85 := by
    apply BitVec.eq_of_toNat_eq
    simp only [BitVec.extractLsb'_toNat, frame_toNat, Nat.shiftRight_eq_div_pow]
    simp
    omega
  have hmodule (y : Symbol) : moduleAt (y.extractLsb' 10 85) m = moduleAt y m := by
    rw [moduleAt_part _ _ _ _ (by decide) hm, Nat.zero_add]
  rw [← hmodule, hparts, hmodule]

/-- A symbol shows the codes it is framed from. -/
theorem frame_inj {lc' rc' : Vector ModuleCode 6} (h : frame c lc rc = frame c lc' rc') : lc = lc' ∧ rc = rc' := by
  constructor
  · ext1 k hk
    rw [← frame_leftCode c lc rc k hk, h, frame_leftCode c lc' rc' k hk]
  · ext1 k hk
    rw [← frame_rightCode c lc rc k hk, h, frame_rightCode c lc' rc' k hk]

end

section
variable (lc rc : Vector ModuleCode 6)

/-! E13's guards (42_framer.md R121), where R123 puts them. -/

theorem frame_e13_start :
    moduleAt (frame e13 lc rc) 0 = true ∧ moduleAt (frame e13 lc rc) 1 = false ∧ moduleAt (frame e13 lc rc) 2 = true :=
  ⟨moduleAt_frame_start e13 lc rc (j := 0) (by decide), moduleAt_frame_start e13 lc rc (j := 1) (by decide),
    moduleAt_frame_start e13 lc rc (j := 2) (by decide)⟩

theorem frame_e13_center :
    moduleAt (frame e13 lc rc) 45 = false ∧ moduleAt (frame e13 lc rc) 46 = true ∧ moduleAt (frame e13 lc rc) 47 = false ∧
      moduleAt (frame e13 lc rc) 48 = true ∧ moduleAt (frame e13 lc rc) 49 = false :=
  ⟨moduleAt_frame_center e13 lc rc (j := 0) (by decide), moduleAt_frame_center e13 lc rc (j := 1) (by decide),
    moduleAt_frame_center e13 lc rc (j := 2) (by decide), moduleAt_frame_center e13 lc rc (j := 3) (by decide),
    moduleAt_frame_center e13 lc rc (j := 4) (by decide)⟩

theorem frame_e13_end :
    moduleAt (frame e13 lc rc) 92 = true ∧ moduleAt (frame e13 lc rc) 93 = false ∧ moduleAt (frame e13 lc rc) 94 = true :=
  ⟨moduleAt_frame_end e13 lc rc (j := 0) (by decide), moduleAt_frame_end e13 lc rc (j := 1) (by decide),
    moduleAt_frame_end e13 lc rc (j := 2) (by decide)⟩

end

/-- The ROM a selector chooses, by the module of the row of `PAR` (41_lut_parity.md R104, R106). -/
theorem leftRom_selector (c : Config) (sel : SelectorWord) (k : Nat) :
    leftRom c (selector sel k) = if moduleAt sel k then c.leven else c.lodd := by
  rw [selector, moduleAt]
  cases sel.getMsbD k with
  | false => rfl
  | true => rfl

/-- Settles O43: the symbol is the frame of the codes of its digits, and each module stands in one part of the frame. -/
theorem symbolLayout : Obligations.SymbolLayout := by
  intro d h
  obtain ⟨lc, rc, hl, hr, hy⟩ := encode13_inRange e13 d h
  refine ⟨_, hy, frame_e13_start lc rc, fun k hk j hj => ?_, frame_e13_center lc rc, fun k hk j hj => ?_,
    frame_e13_end lc rc⟩
  · rw [moduleAt_frame_left e13 lc rc hk hj, leftCodes_getElem e13 _ d h hl k hk]
    simp only [leftRom_selector]
    split <;> rfl
  · rw [moduleAt_frame_right e13 lc rc hk hj, rightCodes_getElem e13 d h hr k hk]

end Sys2Proof.Machine
end

section
/-! SUPPORT. The symbol a well-formed `ENCODE` writes, as the frame of its codes, and as a function of the last cell
(42_framer.md R126, R127, R129). -/

namespace Sys2Proof.Machine

theorem digits_lt_ten_of_candidate {len : Len} {ch : Cells} (h : Candidate 13 len ch) (i : Nat) (hi : i < 13) :
    (digits e13 ch)[i].toNat < 10 :=
  Nat.lt_succ_of_le (digits_le_nine_of_candidate h ⟨i, hi⟩)

/-- The symbol of a well-formed operand is the frame of the left codes and the right codes of its digits. -/
theorem encode13_eq_frame_of_candidate {len : Len} {ch : Cells} (h : Candidate 13 len ch) :
    ∃ lc rc, encode13 e13 (digits e13 ch) = .ok (frame e13 lc rc) := by
  obtain ⟨lc, rc, _, _, hy⟩ := encode13_inRange e13 (digits e13 ch) (digits_lt_ten_of_candidate h)
  exact ⟨lc, rc, hy⟩

/-- What a well-formed `ENCODE` answers on a running engine. -/
theorem exec_encode_of_candidate {len : Len} {ch : Cells} {s : State} {y : Symbol} (hrun : s.st.halt = false)
    (hc : Candidate 13 len ch) (hy : encode13 e13 (digits e13 ch) = .ok y) :
    exec (.encode len ch) s = .next (writeSYM y (beginCommand s)) := by
  rw [exec_running _ hrun, effectOf, encodeEffect_of_candidate _ hc hy]

/-- What the host reads of a symbol once it is written (10_state.md R27, R30). -/
theorem readModule_writeSYM (k : Nat) (i : Fin 95) (y : Symbol) (s : State) : readModule k i (writeSYM y s) = moduleAt y i := by
  rw [readModule, readSYM_of_valid (writeSYM_st y s ▸ rfl), writeSYM_sym]

/-- Settles O44: `SV` is 1, so the host reads the latch, which is a frame. -/
theorem everySymbolIsGuarded : Obligations.EverySymbolIsGuarded := by
  intro len ch s k hrun hc
  obtain ⟨lc, rc, hy⟩ := encode13_eq_frame_of_candidate hc
  refine ⟨_, exec_encode_of_candidate hrun hc hy, ?_⟩
  obtain ⟨h0, h1, h2⟩ := frame_e13_start lc rc
  obtain ⟨h45, h46, h47, h48, h49⟩ := frame_e13_center lc rc
  obtain ⟨h92, h93, h94⟩ := frame_e13_end lc rc
  simp only [readModule_writeSYM]
  exact ⟨h0, h1, h2, h45, h46, h47, h48, h49, h92, h93, h94⟩

theorem digits_set_last (c : Config) (ch : Cells) (x : CharCell) : digits c (ch.set 12 x) = (digits c ch).set 12 (digit c x) := by
  ext1 i hi
  simp only [digits_getElem, Vector.getElem_set, apply_ite (digit c)]

/-- A digit character in the last cell keeps a candidate well-formed. -/
theorem candidate_set_last {len : Len} {ch : Cells} {x : CharCell} (h : Candidate 13 len ch)
    (hx : 0x30 ≤ x.toNat ∧ x.toNat ≤ 0x39) : Candidate 13 len (ch.set 12 x) := by
  obtain ⟨hlen, hcells⟩ := h
  refine ⟨hlen, fun i hi => ?_⟩
  rw [Fin.getElem_fin, Vector.getElem_set]
  split
  · exact hx
  · exact hcells i hi

/-- A symbol from its row of `PAR` and its codes (42_framer.md R124). -/
theorem encode13_eq_frame {c : Config} {d : Vector Digit 13} {sel : SelectorWord} {lc rc : Vector ModuleCode 6}
    (hsel : parsel c d[0] = .ok sel) (hl : leftCodes c sel d = .ok lc) (hr : rightCodes c d = .ok rc) :
    encode13 c d = .ok (frame c lc rc) := by
  simp only [encode13, hsel, bind, Except.bind, hl, hr]
  rfl

section
variable (c : Config) (d : Vector Digit 13) {v : Digit}

theorem parsel_set_last : parsel c (d.set 12 v)[0] = parsel c d[0] := by
  rw [Vector.getElem_set_ne _ _ (by decide)]

theorem leftCodes_set_last (sel : SelectorWord) : leftCodes c sel (d.set 12 v) = leftCodes c sel d := by
  simp [leftCodes]

variable (h : ∀ i (hi : i < 13), d[i].toNat < 10) (hv : v.toNat < 10)
include h

theorem rightCodes_set_last {rc : Vector ModuleCode 6} (hr : rightCodes c d = .ok rc) :
    rightCodes c (d.set 12 v) = .ok (rc.set 5 c.reven[v.toNat]) := by
  have h' : ∀ i (hi : i < 13), (d.set 12 v)[i].toNat < 10 := fun i hi => by
    rw [Vector.getElem_set]
    split
    · exact hv
    · exact h i hi
  rw [rightCodes_inRange c d h] at hr
  cases hr
  simp [rightCodes_inRange c (d.set 12 v) h']

/-- The last digit chooses the last right code and nothing else of the symbol (42_framer.md R124). -/
theorem encode13_set_last :
    ∃ lc rc, encode13 c d = .ok (frame c lc rc) ∧ encode13 c (d.set 12 v) = .ok (frame c lc (rc.set 5 c.reven[v.toNat])) := by
  obtain ⟨lc, rc, hl, hr, hy⟩ := encode13_inRange c d h
  have hsel := (parsel_set_last c d (v := v)).trans (memRead_inRange c.par d[0] (h 0 (by decide)))
  exact ⟨lc, rc, hy,
    encode13_eq_frame hsel ((leftCodes_set_last c d _).trans hl) (rightCodes_set_last c d h hv hr)⟩

end

/-- Settles O46: the last cell chooses the last right code, which fills modules 85 to 91. -/
theorem encodeIgnoresCheckDigit : Obligations.EncodeIgnoresCheckDigit := by
  intro len ch x s hrun hc hx hx'
  have hdigit : (digit e13 x).toNat = x.toNat - 0x30 := digit_toNat e13 x ((isdigit_iff e13 x).mpr ⟨hx, hx'⟩)
  obtain ⟨lc, rc, hy, hy'⟩ := encode13_set_last e13 (digits e13 ch) (v := digit e13 x) (digits_lt_ten_of_candidate hc)
    (by omega)
  rw [← digits_set_last] at hy'
  refine ⟨_, _, exec_encode_of_candidate hrun hc hy, exec_encode_of_candidate hrun (candidate_set_last hc ⟨hx, hx'⟩) hy',
    rfl, rfl, fun m hm hout => ?_, fun j hj => ?_⟩
  · rw [writeSYM_sym, writeSYM_sym]
    obtain hlow | hend := hout
    · exact moduleAt_frame_set_last e13 lc rc _ hlow
    · obtain ⟨j, rfl⟩ := Nat.exists_eq_add_of_le hend
      rw [moduleAt_frame_end _ _ _ (by omega), moduleAt_frame_end _ _ _ (by omega)]
  · rw [writeSYM_sym, moduleAt_frame_right e13 lc _ (k := 5) (by decide) hj, Vector.getElem_set_self]
    simp only [hdigit]

/-- Settles O47: the one operand of thirteen zeros, through the tables. -/
theorem allZerosEncodes : Obligations.AllZerosEncodes := by
  intro ch s hrun hch
  obtain rfl : ch = Vector.replicate 13 0x30#8 := by
    ext1 i hi
    rw [Vector.getElem_replicate]
    exact hch ⟨i, hi⟩
  have hy : encode13 e13 (digits e13 (Vector.replicate 13 0x30#8)) =
      .ok (frame e13 (Vector.replicate 6 0b0001101#7) (Vector.replicate 6 0b1110010#7)) := rfl
  exact ⟨_, exec_encode_of_candidate hrun (by decide) hy, rfl, rfl, rfl⟩

end Sys2Proof.Machine
end

section
/-! SUPPORT. The digits can be read back from their symbol (42_framer.md R130): the codes differ within and between the tables, and the
rows of `PAR` differ (41_lut_parity.md R110 (a), (g)). -/

namespace Sys2Proof.Machine

/-- A ROM without repeated words tells its addresses apart. -/
theorem rom_getElem_inj {word : Type} {rom : Vector word 10} (hrom : rom.toList.Nodup) {a b : Nat} {ha : a < 10} {hb : b < 10}
    (h : rom[a] = rom[b]) : a = b := by
  rw [← Vector.getElem_toList (h := by simpa), ← Vector.getElem_toList (h := by simpa)] at h
  exact hrom.getElem_inj_iff.mp h

theorem romREVEN_nodup : romREVEN.toList.Nodup := moduleCodes_nodup.of_append_right

theorem leftRoms_nodup : (romLODD.toList ++ romLEVEN.toList).Nodup := moduleCodes_nodup.of_append_left

theorem leftRom_e13_nodup (p : Parity) : (leftRom e13 p).toList.Nodup := by
  cases p with
  | odd => exact leftRoms_nodup.of_append_left
  | even => exact leftRoms_nodup.of_append_right

theorem romLODD_ne_romLEVEN {a b : Nat} (ha : a < 10) (hb : b < 10) : romLODD[a] ≠ romLEVEN[b] := by
  intro h
  refine List.disjoint_of_nodup_append leftRoms_nodup (a := romLODD[a]) ?_ ?_
  · exact Vector.mem_toList_iff.mpr (Vector.getElem_mem ha)
  · rw [h]
    exact Vector.mem_toList_iff.mpr (Vector.getElem_mem hb)

/-- A left code shows its parity and its digit (41_lut_parity.md R110 (a)). -/
theorem leftRom_e13_inj {p q : Parity} {a b : Nat} {ha : a < 10} {hb : b < 10} (h : (leftRom e13 p)[a] = (leftRom e13 q)[b]) :
    p = q ∧ a = b := by
  have hpq : p = q := by
    cases p with
    | odd =>
      cases q with
      | odd => rfl
      | even => exact absurd h (romLODD_ne_romLEVEN ha hb)
    | even =>
      cases q with
      | odd => exact absurd h.symm (romLODD_ne_romLEVEN hb ha)
      | even => rfl
  subst hpq
  exact ⟨rfl, rom_getElem_inj (leftRom_e13_nodup p) h⟩

theorem selector_eq_even_iff (sel : SelectorWord) (k : Nat) : selector sel k = .even ↔ sel.getMsbD k = true := by
  simp [selector]

/-- A row of `PAR` is its six selectors (41_lut_parity.md R104). -/
theorem selectorWord_ext {sel sel' : SelectorWord} (h : ∀ k < 6, selector sel k = selector sel' k) : sel = sel' := by
  refine BitVec.eq_of_getMsbD_eq fun k hk => ?_
  rw [Bool.eq_iff_iff, ← selector_eq_even_iff, ← selector_eq_even_iff, h k hk]

/-- Settles O45: the right codes give the last six digits, the left codes the six before them and the selectors, and the selectors the
first digit. -/
theorem encodingIsInjective : Obligations.EncodingIsInjective := by
  intro d d' y hd hd' hy hy'
  have h : ∀ i (hi : i < 13), d[i].toNat < 10 := fun i hi => Nat.lt_succ_of_le (hd ⟨i, hi⟩)
  have h' : ∀ i (hi : i < 13), d'[i].toNat < 10 := fun i hi => Nat.lt_succ_of_le (hd' ⟨i, hi⟩)
  obtain ⟨lc, rc, hl, hr, hframe⟩ := encode13_inRange e13 d h
  obtain ⟨lc', rc', hl', hr', hframe'⟩ := encode13_inRange e13 d' h'
  have hsym : frame e13 lc rc = frame e13 lc' rc' := by
    rw [hy] at hframe
    rw [hy'] at hframe'
    exact (Except.ok.inj hframe).symm.trans (Except.ok.inj hframe')
  obtain ⟨rfl, rfl⟩ := frame_inj e13 lc rc hsym
  have hright (k : Nat) (hk : k < 6) : d[k + 7].toNat = d'[k + 7].toNat :=
    rom_getElem_inj romREVEN_nodup ((rightCodes_getElem e13 d h hr k hk).symm.trans (rightCodes_getElem e13 d' h' hr' k hk))
  have hleft (k : Nat) (hk : k < 6) :
      selector (e13.par[d[0].toNat]'(h 0 (by decide))) k = selector (e13.par[d'[0].toNat]'(h' 0 (by decide))) k ∧
        d[k + 1].toNat = d'[k + 1].toNat :=
    leftRom_e13_inj ((leftCodes_getElem e13 _ d h hl k hk).symm.trans (leftCodes_getElem e13 _ d' h' hl' k hk))
  have hfirst : d[0].toNat = d'[0].toNat :=
    rom_getElem_inj romPAR_nodup (selectorWord_ext fun k hk => (hleft k hk).1)
  ext1 i hi
  apply BitVec.eq_of_toNat_eq
  obtain rfl | hpos := Nat.eq_zero_or_pos i
  · exact hfirst
  obtain hlt | hge := Nat.lt_or_ge i 7
  · obtain ⟨k, rfl⟩ := Nat.exists_eq_add_of_le' hpos
    exact (hleft k (by omega)).2
  · obtain ⟨k, rfl⟩ := Nat.exists_eq_add_of_le' hge
    exact hright k (by omega)

end Sys2Proof.Machine
end

section
/-! SUPPORT. The exceptions (60_exceptions.md): which command raises what (R150), what taking one does to a running engine (R145), and
what a fatal one stops until reset (R143). -/

namespace Sys2Proof.Machine

/-- The exception a taken command raises, if any: the table of 60_exceptions.md R150. -/
def exceptionOf : Instr → Option Exc
  | .chkd len ch => if Candidate 12 len ch then none else some .contractViolation
  | .verify len ch => if Candidate 13 len ch then none else some .formatError
  | .verifyq _ _ => none
  | .encode len ch => if Candidate 13 len ch then none else some .formatError
  | .reserved _ _ _ => some .illegalCommand

/-- A command that raises does nothing else. -/
theorem effectOf_of_exception {i : Instr} {e : Exc} (h : exceptionOf i = some e) (s : State) : effectOf i s = raise e s := by
  cases i with
  | chkd len ch =>
    obtain ⟨hc, rfl⟩ : ¬ Candidate 12 len ch ∧ .contractViolation = e := by simpa [exceptionOf] using h
    exact chkdEffect_of_malformed s hc
  | verify len ch =>
    obtain ⟨hc, rfl⟩ : ¬ Candidate 13 len ch ∧ .formatError = e := by simpa [exceptionOf] using h
    exact verifyEffect_of_malformed s hc
  | verifyq len ch => simp [exceptionOf] at h
  | encode len ch =>
    obtain ⟨hc, rfl⟩ : ¬ Candidate 13 len ch ∧ .formatError = e := by simpa [exceptionOf] using h
    exact encodeEffect_of_malformed s hc
  | reserved op len ch =>
    cases h
    rfl

/-- Where `ERR` is 0, a command's effect leaves in it what the table says. -/
theorem effectOf_err {s : State} (h : s.st.err = none) (i : Instr) : (effectOf i s).st.err = exceptionOf i := by
  cases i with
  | chkd len ch => simp only [effectOf, chkdEffect_st, apply_ite Status.err, h, Status.raise_err, exceptionOf]
  | verify len ch => simp only [effectOf, verifyEffect_st, apply_ite Status.err, h, Status.raise_err, exceptionOf]
  | verifyq len ch => exact h
  | encode len ch => simp only [effectOf, encodeEffect_st, apply_ite Status.err, h, Status.raise_err, exceptionOf]
  | reserved op len ch => rfl

/-- Every code but FormatError's is fatal (60_exceptions.md R140). -/
theorem Exc.fatal_iff (e : Exc) : e.fatal = true ↔ e ≠ .formatError := by
  cases e <;> simp [Exc.fatal]

/-- A command that can halt the engine is one that raises a fatal exception (60_exceptions.md R150). -/
theorem fatalCommand_iff (i : Instr) : FatalCommand i ↔ ∃ e, exceptionOf i = some e ∧ e.fatal = true := by
  cases i with
  | chkd len ch => simp [FatalCommand, exceptionOf, Exc.fatal]
  | verify len ch => simp [FatalCommand, exceptionOf, Exc.fatal]
  | verifyq len ch => simp [FatalCommand, exceptionOf]
  | encode len ch => simp [FatalCommand, exceptionOf, Exc.fatal]
  | reserved op len ch => simp [FatalCommand, exceptionOf, Exc.fatal]

section
variable {i : Instr} {s t : State} (hrun : s.st.halt = false)
include hrun

/-- What a running engine answers to a command that raises (60_exceptions.md R145). -/
theorem exec_of_exception {e : Exc} (h : exceptionOf i = some e) : exec i s = .next (raise e (beginCommand s)) := by
  rw [exec_running i hrun, effectOf_of_exception h]

/-- The status register an exception leaves on a running engine (60_exceptions.md R145). -/
theorem raise_beginCommand_st (e : Exc) :
    (raise e (beginCommand s)).st = { bv := false, dv := false, sv := false, err := some e, halt := e.fatal } := by
  rw [raise_st, beginCommand_st_of_running hrun]
  rfl

variable (he : exec i s = .next t)
include he

theorem exec_running_err : t.st.err = exceptionOf i := by
  rw [exec_running_next_iff hrun] at he
  rw [he]
  exact effectOf_err rfl i

/-- On a running engine a command sets `HALT` exactly if it raises a fatal exception (60_exceptions.md R143). -/
theorem exec_running_halt_iff : t.st.halt = true ↔ ∃ e, t.st.err = some e ∧ e.fatal = true := by
  rw [exec_running_next_iff hrun] at he
  rw [he]
  exact (consistent_effectOf (beginCommand_st_of_running hrun) i).haltFatal

theorem eq_raise_of_err {e : Exc} (herr : t.st.err = some e) : t = raise e (beginCommand s) := by
  rw [exec_of_exception hrun ((exec_running_err hrun he).symm.trans herr)] at he
  exact (Host.Outcome.next.inj he).symm

theorem exec_running_of_not_fatal (h : ¬ FatalCommand i) : t.st.halt = false := by
  rwa [← Bool.not_eq_true, exec_running_halt_iff hrun he, exec_running_err hrun he, ← fatalCommand_iff]

end

/-- Settles O11: a reserved word decodes to the reserved instruction, which raises IllegalCommand whatever its fields. -/
theorem reservedOpRaisesIllegalCommand : Obligations.ReservedOpRaisesIllegalCommand := by
  intro s hrun
  have hraise (op : BitVec 3) (len : Len) (ch : Cells) :
      exec (.reserved op len ch) s = .next (raise .illegalCommand (beginCommand s)) := exec_of_exception hrun rfl
  have hst := raise_beginCommand_st hrun .illegalCommand
  refine ⟨fun op len ch => ⟨_, hraise op len ch, rfl, rfl, rfl, hst⟩, fun w hw => ?_⟩
  rw [← opField_toNat] at hw
  rw [decode_of_op_reserved hw]
  exact ⟨_, hraise _ _ _, rfl, rfl, rfl, hst⟩

/-- Settles O14: `ERR` is the command's entry in the table. -/
theorem exceptionTable : Obligations.ExceptionTable := by
  intro op len ch s t hrun
  exact ⟨exec_running_err hrun, exec_running_err hrun, exec_running_err hrun, exec_running_err hrun, exec_running_err hrun⟩

/-- Settles O15: the fatal codes are 2 and 3, a halted engine takes no command, and of the steps only reset clears `HALT`. -/
theorem fatalHaltsUntilReset : Obligations.FatalHaltsUntilReset := by
  refine ⟨fun i s t hrun he => ?_, fun i s => exec_halted i, fun s t hhalt hstep ht => ?_⟩
  · rw [exec_running_halt_iff hrun he]
    constructor
    · rintro ⟨e, herr, hfatal⟩
      cases e with
      | formatError => cases hfatal
      | contractViolation => exact .inl herr
      | illegalCommand => exact .inr herr
    · rintro (herr | herr)
      · exact ⟨_, herr, rfl⟩
      · exact ⟨_, herr, rfl⟩
  · obtain ⟨_, rfl⟩ | ⟨rest, hin, _⟩ | ⟨w, rest, _, _, he⟩ := step_next_cases hstep
    · simp [hhalt] at ht
    · exact ⟨rest, hin⟩
    · rw [exec_halted (s := { s with inputs := rest }) _ hhalt] at he
      cases he
      simp [hhalt] at ht

/-- Settles O16: what a command that raised has done is `begin_command` and `raise`. -/
theorem raiseWritesStatusOnly : Obligations.RaiseWritesStatusOnly := by
  intro i s t e hrun he herr
  have hcode : (readST t).extractLsb' 3 2 = e.code := (readERR_eq t).trans (Status.errCode_of_some herr)
  obtain rfl := eq_raise_of_err hrun he herr
  refine ⟨rfl, rfl, rfl, ?_, rfl, rfl, rfl, rfl, rfl, ?_⟩
  · rw [raise_beginCommand_st hrun, Exc.fatal_iff]
  · rw [hcode]
    cases e <;> rfl

/-- Settles O17: FormatError leaves the engine running, and on a running engine the command alone settles what it raises and what it
answers. -/
theorem formatErrorLeavesNoTrace : Obligations.FormatErrorLeavesNoTrace := by
  intro i j s t hrun he herr
  have hrun' : t.st.halt = false := by
    rw [eq_raise_of_err hrun he herr, raise_beginCommand_st hrun]
    rfl
  have hexc : exceptionOf i = some .formatError := (exec_running_err hrun he).symm.trans herr
  exact ⟨⟨_, exec_of_exception hrun' hexc, rfl⟩,
    ⟨_, _, exec_running j hrun', exec_running j hrun,
      resultsDependOnCommandAlone j t s _ _ hrun' hrun (exec_running j hrun') (exec_running j hrun)⟩⟩

/-- What every step of a live engine keeps holds after any number of them. -/
theorem core_run_keeps {P : State → Prop} (hkeep : ∀ s t, P s → step s = .next t → P t) (k : Nat) {s : State}
    (hl : s.live = true) (hs : P s) : ∃ t, Host.Core.run Sys2Proof.core k s = .next t ∧ P t := by
  induction k generalizing s with
  | zero => exact ⟨s, rfl, hs⟩
  | succ k ih =>
    obtain ⟨u, hu⟩ := step_answers_next hl
    rw [core_run_succ k hu]
    exact ih (step_live hl hu) (hkeep s u hs hu)

/-- A running engine to which no command that can halt it will be presented. -/
structure State.NeverHalts (s : State) : Prop where
  running : s.st.halt = false
  noFatalCommand : ∀ w, HostInput.present w ∈ s.inputs → ¬ FatalCommand (decode w)

theorem State.NeverHalts.step {s t : State} (hs : s.NeverHalts) (h : step s = .next t) : t.NeverHalts where
  running := by
    obtain ⟨_, rfl⟩ | ⟨rest, _, rfl⟩ | ⟨w, rest, hin, _, he⟩ := step_next_cases h
    · exact hs.running
    · rfl
    · exact exec_running_of_not_fatal (s := { s with inputs := rest }) hs.running he (hs.noFatalCommand w (by simp [hin]))
  noFatalCommand w hw := by
    rw [step_inputs h] at hw
    exact hs.noFatalCommand w (List.mem_of_mem_tail hw)

/-- Settles O25: no step sets `HALT` while the commands to come cannot. -/
theorem runsWithoutFatalCommandsAreSafe : Obligations.RunsWithoutFatalCommandsAreSafe := by
  intro s hl hrun hin k j _
  obtain ⟨t, ht, hsafe⟩ := core_run_keeps (fun _ _ => State.NeverHalts.step) j hl ⟨hrun, hin⟩
  exact ⟨t, ht, by simp [State.GoneWrong, hsafe.running]⟩

/-- Settles O51: the platform's step that is no reset sets the engine it names, and no other, to what the engine's own step gives. -/
theorem enginesAreIndependent : Obligations.EnginesAreIndependent := by
  intro p q k s hk hno hstep
  obtain ⟨u, hu, hcases⟩ := Platform.step_next_cases hstep
  obtain rfl : u = s := Option.some.inj (hu.symm.trans hk)
  obtain ⟨rest, hin, _⟩ | ⟨_, t, ht, rfl⟩ := hcases
  · exact absurd hin (hno rest)
  · exact ⟨fun j hj => List.getElem?_set_ne hj.symm, t, ht, List.getElem?_set_self (List.getElem?_eq_some_iff.mp hk).1⟩

end Sys2Proof.Machine
end

section
/-! SUPPORT. Reset and commands at one engine and on a platform (70_reset_and_hazards.md R160, R161, R170). -/

namespace Sys2Proof.Machine

/-- Reset taken from the host's list acts on any engine whatever (70_reset_and_hazards.md R160). -/
theorem step_reset {s : State} {rest : List HostInput} (hin : s.inputs = .reset :: rest) :
    step s = .next (assertReset { s with inputs := rest }) := by
  rw [step, takeInput_cons hin]

theorem readST_assertReset (s : State) : readST (assertReset s) = 0x00#8 := by
  rw [readST, assertReset_st]
  rfl

/-- From `ST = 0` a command's effect leaves a valid result or an exception, never both (10_state.md R29). -/
theorem effectOf_err_eq_none_iff {s : State} (h : s.st = Status.reset) (i : Instr) :
    (effectOf i s).st.err = none ↔
      (effectOf i s).st.bv = true ∨ (effectOf i s).st.dv = true ∨ (effectOf i s).st.sv = true := by
  cases i with
  | chkd len ch =>
    rw [effectOf, chkdEffect_st]
    split <;> simp [h]
  | verify len ch =>
    rw [effectOf, verifyEffect_st]
    split <;> simp [h]
  | verifyq len ch => simp [effectOf, verifyqEffect_st, h]
  | encode len ch =>
    rw [effectOf, encodeEffect_st]
    split <;> simp [h]
  | reserved op len ch => simp [effectOf, h]

/-- A taken command never leaves `ST = 0` (10_state.md R29). -/
theorem effectOf_st_ne_reset {s : State} (h : s.st = Status.reset) (i : Instr) : (effectOf i s).st ≠ Status.reset := by
  intro hst
  simpa [hst] using effectOf_err_eq_none_iff h i

/-- Settles O52: the step is the platform's reset, which maps `assertReset` over the engines. -/
theorem resetReachesEveryEngine : Obligations.ResetReachesEveryEngine := by
  intro p q k s rest hk hin hstep
  obtain ⟨u, hu, hcases⟩ := Platform.step_next_cases hstep
  obtain rfl : u = s := Option.some.inj (hu.symm.trans hk)
  obtain ⟨_, _, rfl⟩ | ⟨hno, _⟩ := hcases
  · refine ⟨by simp [Platform.assertReset], fun t ht => ?_⟩
    obtain ⟨v, _, rfl⟩ := List.mem_map.mp ht
    exact ⟨readST_assertReset v, assertReset_live v⟩
  · exact absurd hin (hno rest)

/-- Settles O54: the step is the command's effect, from the `ST = 0` that `begin_command` leaves. -/
theorem presentedCommandCompletes : Obligations.PresentedCommandCompletes := by
  intro s w rest hl hrun hin
  have he := exec_running (decode w) (s := { s with inputs := rest }) hrun
  exact ⟨_, (step_present hl hin).trans he, (exec_live he).trans hl, exec_inputs he,
    effectOf_err_eq_none_iff (begin_eq_reset_of_running hrun) _⟩

/-- Settles O30: reset leaves `ST = 0`, and every command taken from there leaves another `ST`. -/
theorem resetFromAnyState : Obligations.ResetFromAnyState := by
  intro s rest hin
  refine ⟨_, step_reset hin, readST_assertReset _, assertReset_live _, assertReset_inputs _, fun i => ?_⟩
  refine ⟨_, exec_running i rfl, fun heq => ?_⟩
  exact effectOf_st_ne_reset rfl i (congrArg State.st heq)

/-- Settles O31: the engine is asked for `live` before a presented word is decoded. -/
theorem commandBeforeResetIsRefused : Obligations.CommandBeforeResetIsRefused := by
  intro s w rest hl hin
  simp [step, takeInput_cons hin, hl]

end Sys2Proof.Machine
end

section
/-! SUPPORT. A host that checks `ST` after a command (70_reset_and_hazards.md R167, R171): what each of its conditions says of the
engine, and what it does on an engine that a command has halted. -/

namespace Sys2Proof.Machine

/-- Codes 2 and 3 are the fatal ones (60_exceptions.md R140). -/
theorem exists_fatal_iff {err : Option Exc} :
    (∃ e, err = some e ∧ e.fatal = true) ↔ err = some .contractViolation ∨ err = some .illegalCommand := by
  constructor
  · rintro ⟨e, rfl, hfatal⟩
    cases e with
    | formatError => cases hfatal
    | contractViolation => exact .inl rfl
    | illegalCommand => exact .inr rfl
  · rintro (rfl | rfl)
    · exact ⟨_, rfl, rfl⟩
    · exact ⟨_, rfl, rfl⟩

/-- `ST.ERR` as a number, code by code (10_state.md R24). -/
theorem Status.errCode_ge_two_iff (st : Status) :
    2 ≤ st.errCode.toNat ↔ st.err = some .contractViolation ∨ st.err = some .illegalCommand := by
  rcases herr : st.err with _ | _ | _ | _ <;> simp [Status.errCode, herr, Exc.code]

theorem Status.errCode_eq_one_iff (st : Status) : st.errCode.toNat = 1 ↔ st.err = some .formatError := by
  rcases herr : st.err with _ | _ | _ | _ <;> simp [Status.errCode, herr, Exc.code]

section
variable (h : HostRun)

theorem HostRun.test_valid_iff (hbv : h.engine.st.bv = true) : h.test .valid = true ↔ h.engine.rb = true := by
  simp [HostRun.test_eq, HostRun.look, HostCond.valid, hostRead, readRB_of_valid hbv]

theorem HostRun.test_running_iff : h.test .running = true ↔ h.engine.st.halt = false := by
  simp [HostRun.test_eq, HostRun.look, HostCond.running, hostRead]

theorem HostRun.test_halted_iff : h.test .halted = true ↔ h.engine.st.halt = true := by
  simp [HostRun.test_eq, HostRun.look, HostCond.halted, hostRead]

theorem HostRun.test_fatal_iff :
    h.test .fatal = true ↔ h.engine.st.err = some .contractViolation ∨ h.engine.st.err = some .illegalCommand := by
  simp [HostRun.test_eq, HostRun.look, HostCond.fatal, hostRead, Status.errCode_ge_two_iff]

theorem HostRun.test_formatError_iff : h.test .formatError = true ↔ h.engine.st.err = some .formatError := by
  simp [HostRun.test_eq, HostRun.look, HostCond.formatError, hostRead, Status.errCode_eq_one_iff]

end

/-- Settles O55, condition by condition. -/
theorem hostConditionsSayTheState : Obligations.HostConditionsSayTheState := fun h =>
  ⟨h.test_valid_iff, h.test_running_iff, h.test_halted_iff, h.test_fatal_iff, h.test_formatError_iff⟩

section
variable {i : Instr} {s t : State} (hrun : s.st.halt = false) (he : exec i s = .next t)
include hrun he

/-- `ERR` holds a fatal code after exactly the commands of 60_exceptions.md R150 that raise one. -/
theorem exec_running_fatal_err_iff : (∃ e, t.st.err = some e ∧ e.fatal = true) ↔ FatalCommand i := by
  rw [exec_running_err hrun he, fatalCommand_iff]

/-- `HALT` is set by exactly those commands (60_exceptions.md R143). -/
theorem exec_running_halt_iff_fatalCommand : t.st.halt = true ↔ FatalCommand i := by
  rw [exec_running_halt_iff hrun he, exec_running_fatal_err_iff hrun he]

end

/-- A command presented first: the rest of the program finds the engine as the command leaves it, and nothing read yet. -/
theorem runHost_present {w : CommandWord} {s t : State} (rest : List HostStep) (hl : s.live = true)
    (he : exec (decode w) s = .next t) : runHost (.present w :: rest) s = runHost rest t :=
  HostRun.exec_present rest rfl rfl hl he

/-- Settles O56: both conditions say whether the command's exception was a fatal one. -/
theorem hostCheckTellsFatalCommands : Obligations.HostCheckTellsFatalCommands := by
  intro w s hl hrun
  have he := exec_running (decode w) hrun
  constructor
  · refine ⟨_, (runHost_present _ hl he).trans (HostRun.exec_compare [] rfl rfl .running), ?_⟩
    rw [Bool.not_eq_true', ← Bool.not_eq_true, HostRun.test_running_iff, Bool.not_eq_false]
    exact exec_running_halt_iff_fatalCommand hrun he
  · refine ⟨_, (runHost_present _ hl he).trans (HostRun.exec_compare [] rfl rfl .fatal), ?_⟩
    rw [Bool.not_eq_false', HostRun.test_fatal_iff, ← exists_fatal_iff]
    exact exec_running_fatal_err_iff hrun he

section
variable {h : HostRun} (rest : List HostStep) (hs : h.stopped = false) (hp : h.passOver = 0)
include hs hp

theorem HostRun.exec_onlyIf_of_holds {c : HostCond} (n : Nat) (ht : h.test c = true) :
    HostRun.exec (.onlyIf c n :: rest) h = HostRun.exec rest (h.noted c.reg) :=
  HostRun.exec_step rest hs hp (by simp [HostRun.act, ht, HostRun.noted, hp])

theorem HostRun.exec_onlyIf_of_not_holds {c : HostCond} (n : Nat) (ht : ¬ h.test c = true) :
    HostRun.exec (.onlyIf c n :: rest) h = HostRun.exec rest { h.noted c.reg with passOver := n } :=
  HostRun.exec_step rest hs hp (by simp [HostRun.act, ht])

/-- Reset asserted only if `HALT` is 1 leaves a running engine either way (70_reset_and_hazards.md R167). -/
theorem HostRun.exec_resetIfHalted (hl : h.engine.live = true) :
    ∃ r : HostRun, HostRun.exec (.onlyIf .halted 1 :: .reset :: rest) h = HostRun.exec rest r ∧
      r.stopped = false ∧ r.passOver = 0 ∧ r.engine.live = true ∧ r.engine.st.halt = false := by
  by_cases hhalt : h.engine.st.halt = true
  · refine ⟨{ h.noted .halt with engine := assertReset h.engine }, ?_, hs, hp, assertReset_live _, rfl⟩
    rw [HostRun.exec_onlyIf_of_holds _ hs hp 1 (h.test_halted_iff.mpr hhalt)]
    exact HostRun.exec_step rest hs hp rfl
  · refine ⟨{ h.noted .halt with passOver := 0 }, ?_, hs, rfl, hl, eq_false_of_ne_true hhalt⟩
    rw [HostRun.exec_onlyIf_of_not_holds _ hs hp 1 (mt h.test_halted_iff.mp hhalt)]
    exact HostRun.exec_passOver .reset rest hs Nat.one_pos

end

/-- Settles O57: whether the host has reset the engine or passed the reset over, the second command finds it running. -/
theorem hostRecoversByReset : Obligations.HostRecoversByReset := by
  intro w v s hl hrun
  have hw := exec_running (decode w) hrun
  obtain ⟨r, hreset, hs, hp, hlive, hrun'⟩ :=
    HostRun.exec_resetIfHalted (h := ⟨_, [], 0, false⟩) [.present v] rfl rfl ((exec_live hw).trans hl)
  have hv := exec_running (decode v) hrun'
  have hv' := exec_running (decode v) hrun
  exact ⟨_, _, (runHost_present _ hl hw).trans (hreset.trans (HostRun.exec_present [] hs hp hlive hv)), hs, hv',
    resultsDependOnCommandAlone (decode v) r.engine s _ _ hrun' hrun hv hv'⟩

end Sys2Proof.Machine
end
